-- ==== Sys2Proof/Word.lean ====
section
/-! DEFINITION. The two widths of values the block moves (10_state.md R25, 20_memory.md R35). -/

namespace Sys2Proof

/-- A `Byte`: an unsigned value of 8 bits (R10): a table entry, a buffer byte, the accumulator. -/
abbrev Byte := BitVec 8

/-- A `Word32`: an unsigned value of 32 bits, bit 0 the least significant (R6, R7, R10). -/
abbrev Word := BitVec 32

end Sys2Proof
end

