-- ==== Sys2Proof/Syntax.lean ====
section
/-! DEFINITION. The request record, the five operations with their operands, the pseudo-instructions and
the assembly lines (10_state.md R19; 30_encoding.md R44, R47, R54, R56 to R58). -/

namespace Sys2Proof

/-- A field descriptor `(off, mask)`: the source's bit offset and right-aligned bit mask (R50, R67). -/
structure FieldDesc where
  off : Word
  mask : Word
deriving DecidableEq, Repr

/-- A request: one record of these fields, delivered as one transaction (R19, R42). -/
structure Request where
  /-- the command word (R43) -/
  cmd : Word
  /-- first operand -/
  a : Word
  /-- second operand -/
  b : Word
  /-- first field descriptor -/
  tf : FieldDesc
  /-- second field descriptor -/
  df : FieldDesc
  /-- the byte buffer of CKSUM, element 0 first -/
  buf : List Byte
deriving DecidableEq, Repr

/-- The five operations of the opcode map (R44), each with the request fields it reads (R47) and no
others. CKSTEP keeps its two operand words whole: which bits of them it uses is part of its meaning (R64). -/
inductive Instr where
  /-- CKSUM: checksum of a byte buffer (R61) -/
  | cksum (buf : List Byte)
  /-- CKSTEP: one checksum update step (R64); `a` holds the accumulator, `b` the byte -/
  | ckstep (a b : Word)
  /-- PACK: range-check a value and merge it into a word (R70) -/
  | pack (word value : Word) (field : FieldDesc)
  /-- ENCODE: encode a message into a register word (R78) -/
  | encode (msgType msgData : Word) (tf df : FieldDesc)
  /-- DECODE: decode a register word into a message (R83) -/
  | decode (word : Word) (tf df : FieldDesc)
deriving DecidableEq, Repr

/-- The pseudo-instructions (R56, R57, R58): other spellings of requests of the five operations. -/
inductive Pseudo where
  /-- CKSEED: the seed (R56) -/
  | ckseed
  /-- TBLRD x: table entry `x` (R57) -/
  | tblrd (x : Byte)
  /-- RANGECHK value, (off, mask): the range validator alone (R58) -/
  | rangechk (value : Word) (field : FieldDesc)
deriving DecidableEq, Repr

/-- One line of the assembly syntax: one request (R54). -/
inductive AsmLine where
  | instr (i : Instr)
  | pseudo (p : Pseudo)
  /-- `.word`: a request with the given command word and every other field 0 (R54) -/
  | word (cmd : Word)
deriving DecidableEq, Repr

end Sys2Proof
end

