-- ==== Sys2Proof/Decode.lean ====
section
/-! DEFINITION. The decoder of a request, total on every record and rejecting an illegal command word by
name, and after it the encoder and the assembler (30_encoding.md R43 to R47, R52, R54, R56 to R58). -/

namespace Sys2Proof

/-- `OP`, bits 3:0 of the command word (R43). -/
def cmdOp (cmd : Word) : BitVec 4 :=
  cmd.extractLsb' 0 4

/-- `RSV`, bits 31:4 of the command word (R43). -/
def cmdRsv (cmd : Word) : BitVec 28 :=
  cmd.extractLsb' 4 28

/-- Why a command word is illegal (R45). -/
inductive CmdError where
  /-- `RSV` is not 0, whatever the value of `OP` -/
  | reservedBits (rsv : BitVec 28)
  /-- `OP` is 0x0 or one of 0x6 to 0xF -/
  | unassignedOp (op : BitVec 4)
deriving DecidableEq, Repr

/-- The operation is decided from `cmd` alone (R42); the operands are the fields R47 names for it, taken
whole (R49), and every other field is ignored. -/
def decode (r : Request) : Except CmdError Instr :=
  if cmdRsv r.cmd = 0 then
    match (cmdOp r.cmd).toNat with
    | 1 => .ok (.cksum r.buf)
    | 2 => .ok (.ckstep r.a r.b)
    | 3 => .ok (.pack r.a r.b r.tf)
    | 4 => .ok (.encode r.a r.b r.tf r.df)
    | 5 => .ok (.decode r.a r.tf r.df)
    | _ => .error (.unassignedOp (cmdOp r.cmd))
  else .error (.reservedBits (cmdRsv r.cmd))

/-- A field descriptor of zeros: a line's unnamed descriptor (R54). -/
def FieldDesc.zero : FieldDesc :=
  { off := 0, mask := 0 }

/-- `.word`: the request with this command word and every other field 0 (R54). -/
def Request.ofCmd (cmd : Word) : Request :=
  { cmd := cmd, a := 0, b := 0, tf := FieldDesc.zero, df := FieldDesc.zero, buf := [] }

/-- The request of one instruction: its command word from the opcode map (R44), the operands in the slots
of R47, and every field the line does not name 0 (R54). -/
def encode : Instr → Request
  | .cksum buf => { Request.ofCmd 0x00000001 with buf := buf }
  | .ckstep a b => { Request.ofCmd 0x00000002 with a := a, b := b }
  | .pack word value field => { Request.ofCmd 0x00000003 with a := word, b := value, tf := field }
  | .encode t d tf df => { Request.ofCmd 0x00000004 with a := t, b := d, tf := tf, df := df }
  | .decode word tf df => { Request.ofCmd 0x00000005 with a := word, tf := tf, df := df }

/-- The expansion of a pseudo-instruction (R56, R57, R58). -/
def Pseudo.expand : Pseudo → Instr
  | .ckseed => .cksum []
  | .tblrd x => .ckstep 0 (x.setWidth 32)
  | .rangechk value field => .pack 0 value field

/-- The request of one assembly line (R54). -/
def assemble : AsmLine → Request
  | .instr i => encode i
  | .pseudo p => encode p.expand
  | .word cmd => Request.ofCmd cmd

/-- The request that an opcode-table row's bits stand for: the table gives a row the 32 bits of `cmd` and
no operand, so bit `k` of `w` is bit `k` of `cmd` and every other field is 0 (R43, R54). -/
def Request.ofTableWord (nbits w : Nat) : Request :=
  Request.ofCmd (BitVec.ofNat 32 (w % 2 ^ nbits))

/-- The instruction the decoder reads from an opcode-table row's bits; none where the command word is
illegal (R45). -/
def decodeTableWord (nbits w : Nat) : Option Instr :=
  match decode (Request.ofTableWord nbits w) with
  | .ok i => some i
  | .error _ => none

end Sys2Proof
end

