-- ==== Sys2Proof/Config.lean ====
section
/-! DEFINITION. The three build-time parameters of the block (00_scope.md R8, 10_state.md R17). They are
plain data and stand in `State`, so that every statement about every state is a statement about every
build of the block; the values after reset are in Machine/BuildDefaults.lean. -/

namespace Sys2Proof

/-- The configuration of one build (R8, R17): fixed when the block is built, written by no request and
not affected by reset (R30). -/
structure Config where
  /-- `CK_TABLE`: 256 entries of 8 bits, indexed 0..255 (R8, R32). -/
  ckTable : Vector Byte 256
  /-- `ORIGIN_TAG`: the word OR'd into every encoded word (R8, R80). -/
  originTag : Word
  /-- `CK_MAX_LEN`: the longest buffer a CKSUM may carry; `none` is unbounded (R8, R60). -/
  ckMaxLen : Option Nat
deriving DecidableEq, Repr

end Sys2Proof
end

