-- ==== Sys2Proof/Machine/BuildDefaults.lean ====
section
/-! DEFINITION. The configuration that stands in the state after reset: the spec's default candidate for
`CK_TABLE` (40_checksum.md R62), the origin tag of the spec's test vectors (95_test_vectors.md), and an
unbounded `CK_MAX_LEN` (00_scope.md R8). -/

namespace Sys2Proof.Machine

/-- Entries 0x00 to 0x0F of the default table (R62). -/
def ckRow0 : List Byte :=
  [0x00, 0x97, 0xB9, 0x2E, 0xE5, 0x72, 0x5C, 0xCB,
   0x5D, 0xCA, 0xE4, 0x73, 0xB8, 0x2F, 0x01, 0x96]

/-- Entries 0x10 to 0x1F of the default table (R62). -/
def ckRow1 : List Byte :=
  [0xBA, 0x2D, 0x03, 0x94, 0x5F, 0xC8, 0xE6, 0x71,
   0xE7, 0x70, 0x5E, 0xC9, 0x02, 0x95, 0xBB, 0x2C]

/-- Entries 0x20 to 0x2F of the default table (R62). -/
def ckRow2 : List Byte :=
  [0xE3, 0x74, 0x5A, 0xCD, 0x06, 0x91, 0xBF, 0x28,
   0xBE, 0x29, 0x07, 0x90, 0x5B, 0xCC, 0xE2, 0x75]

/-- Entries 0x30 to 0x3F of the default table (R62). -/
def ckRow3 : List Byte :=
  [0x59, 0xCE, 0xE0, 0x77, 0xBC, 0x2B, 0x05, 0x92,
   0x04, 0x93, 0xBD, 0x2A, 0xE1, 0x76, 0x58, 0xCF]

/-- Entries 0x40 to 0x4F of the default table (R62). -/
def ckRow4 : List Byte :=
  [0x51, 0xC6, 0xE8, 0x7F, 0xB4, 0x23, 0x0D, 0x9A,
   0x0C, 0x9B, 0xB5, 0x22, 0xE9, 0x7E, 0x50, 0xC7]

/-- Entries 0x50 to 0x5F of the default table (R62). -/
def ckRow5 : List Byte :=
  [0xEB, 0x7C, 0x52, 0xC5, 0x0E, 0x99, 0xB7, 0x20,
   0xB6, 0x21, 0x0F, 0x98, 0x53, 0xC4, 0xEA, 0x7D]

/-- Entries 0x60 to 0x6F of the default table (R62). -/
def ckRow6 : List Byte :=
  [0xB2, 0x25, 0x0B, 0x9C, 0x57, 0xC0, 0xEE, 0x79,
   0xEF, 0x78, 0x56, 0xC1, 0x0A, 0x9D, 0xB3, 0x24]

/-- Entries 0x70 to 0x7F of the default table (R62). -/
def ckRow7 : List Byte :=
  [0x08, 0x9F, 0xB1, 0x26, 0xED, 0x7A, 0x54, 0xC3,
   0x55, 0xC2, 0xEC, 0x7B, 0xB0, 0x27, 0x09, 0x9E]

/-- Entries 0x80 to 0x8F of the default table (R62). -/
def ckRow8 : List Byte :=
  [0xA2, 0x35, 0x1B, 0x8C, 0x47, 0xD0, 0xFE, 0x69,
   0xFF, 0x68, 0x46, 0xD1, 0x1A, 0x8D, 0xA3, 0x34]

/-- Entries 0x90 to 0x9F of the default table (R62). -/
def ckRow9 : List Byte :=
  [0x18, 0x8F, 0xA1, 0x36, 0xFD, 0x6A, 0x44, 0xD3,
   0x45, 0xD2, 0xFC, 0x6B, 0xA0, 0x37, 0x19, 0x8E]

/-- Entries 0xA0 to 0xAF of the default table (R62). -/
def ckRowA : List Byte :=
  [0x41, 0xD6, 0xF8, 0x6F, 0xA4, 0x33, 0x1D, 0x8A,
   0x1C, 0x8B, 0xA5, 0x32, 0xF9, 0x6E, 0x40, 0xD7]

/-- Entries 0xB0 to 0xBF of the default table (R62). -/
def ckRowB : List Byte :=
  [0xFB, 0x6C, 0x42, 0xD5, 0x1E, 0x89, 0xA7, 0x30,
   0xA6, 0x31, 0x1F, 0x88, 0x43, 0xD4, 0xFA, 0x6D]

/-- Entries 0xC0 to 0xCF of the default table (R62). -/
def ckRowC : List Byte :=
  [0xF3, 0x64, 0x4A, 0xDD, 0x16, 0x81, 0xAF, 0x38,
   0xAE, 0x39, 0x17, 0x80, 0x4B, 0xDC, 0xF2, 0x65]

/-- Entries 0xD0 to 0xDF of the default table (R62). -/
def ckRowD : List Byte :=
  [0x49, 0xDE, 0xF0, 0x67, 0xAC, 0x3B, 0x15, 0x82,
   0x14, 0x83, 0xAD, 0x3A, 0xF1, 0x66, 0x48, 0xDF]

/-- Entries 0xE0 to 0xEF of the default table (R62). -/
def ckRowE : List Byte :=
  [0x10, 0x87, 0xA9, 0x3E, 0xF5, 0x62, 0x4C, 0xDB,
   0x4D, 0xDA, 0xF4, 0x63, 0xA8, 0x3F, 0x11, 0x86]

/-- Entries 0xF0 to 0xFF of the default table (R62). -/
def ckRowF : List Byte :=
  [0xAA, 0x3D, 0x13, 0x84, 0x4F, 0xD8, 0xF6, 0x61,
   0xF7, 0x60, 0x4E, 0xD9, 0x12, 0x85, 0xAB, 0x3C]

/-- Rows 0x0_ to 0x3_ of the default table. -/
def ckQuarter0 : List Byte :=
  ckRow0 ++ ckRow1 ++ ckRow2 ++ ckRow3

/-- Rows 0x4_ to 0x7_ of the default table. -/
def ckQuarter1 : List Byte :=
  ckRow4 ++ ckRow5 ++ ckRow6 ++ ckRow7

/-- Rows 0x8_ to 0xB_ of the default table. -/
def ckQuarter2 : List Byte :=
  ckRow8 ++ ckRow9 ++ ckRowA ++ ckRowB

/-- Rows 0xC_ to 0xF_ of the default table. -/
def ckQuarter3 : List Byte :=
  ckRowC ++ ckRowD ++ ckRowE ++ ckRowF

theorem ckQuarter0_length : ckQuarter0.length = 64 := rfl
theorem ckQuarter1_length : ckQuarter1.length = 64 := rfl
theorem ckQuarter2_length : ckQuarter2.length = 64 := rfl
theorem ckQuarter3_length : ckQuarter3.length = 64 := rfl

/-- The default candidate for `CK_TABLE`, index 0 first (R62).
PRESUMED (assumption 1, unsafe): the spec marks it general knowledge, not the source's table. -/
def defaultTable : Vector Byte 256 :=
  ⟨⟨ckQuarter0 ++ ckQuarter1 ++ ckQuarter2 ++ ckQuarter3⟩, by
    simp [ckQuarter0_length, ckQuarter1_length, ckQuarter2_length, ckQuarter3_length]⟩

/-- The origin tag after reset.
DESIGN CHOICE (assumption 2, unsafe): the spec leaves `ORIGIN_TAG` open; this is the value its test
vectors use. -/
def defaultOriginTag : Word := 0x80000000

/-- The bound on a CKSUM buffer after reset: unbounded, the spec's default (R8, R60).
DESIGN CHOICE (assumption 3, unsafe): a build may bound it. -/
def defaultMaxLen : Option Nat := none

/-- The configuration in the state after reset. No statement rests on these values: the statements hold
for every configuration. -/
def defaultConfig : Config :=
  { ckTable := defaultTable, originTag := defaultOriginTag, ckMaxLen := defaultMaxLen }

end Sys2Proof.Machine
end

