-- ==== Sys2Proof/Machine/State.lean ====
section
/-! DEFINITION. The responses of the block, what can reach its ports, its state, the reasons a step can
stop, and the state after reset (10_state.md R17, R20, R22, R29, R30; 70_reset_and_hazards.md R105, R115). -/

namespace Sys2Proof.Machine

/-- A diagnostic event (R22). -/
inductive Diag where
  /-- the value that failed a range check and the mask it failed against (R69) -/
  | rangeViolation (value mask : Word)
  /-- a DECODE extracted a type of 0 (R84) -/
  | zeroType
deriving DecidableEq, Repr

/-- A response: one record of these fields for every accepted request (R20). -/
structure Response where
  /-- the status word (R21; Flags.lean) -/
  status : Word
  /-- first result -/
  r0 : Word
  /-- second result -/
  r1 : Word
  /-- the diagnostic output: none or one event (R22) -/
  diag : Option Diag
deriving DecidableEq, Repr

/-- What the environment does at the ports (R36, R105, R115).
DESIGN CHOICE (assumption 6, safe): the environment's acts are a list in the state. -/
inductive PortEvent where
  /-- a requester presents a request (R115) -/
  | request (r : Request)
  /-- reset is asserted (R105) -/
  | reset
  /-- the environment does nothing until the block is idle: a later reset then finds no request in progress -/
  | quiet
deriving DecidableEq, Repr

/-- The state. The spec's own part is the configuration, which never changes (R17, R29), and the two ports
(R30). `env` and `history` are the model's: what the environment is about to do, and the run so far (R29),
which decides nothing. The block has no register, program counter, flag, memory, control register or trap
state (R15, R16, R23, R24, R31, R89). -/
structure State where
  /-- `CK_TABLE`, `ORIGIN_TAG`, `CK_MAX_LEN` (R17) -/
  config : Config
  /-- the request port: the request accepted and not yet answered; `none` is idle (R30) -/
  reqPort : Option Request
  /-- the response port: the response last sent; `none` is empty (R30) -/
  respPort : Option Response
  /-- the model's: what reaches the ports next, in the order the environment chose (R36) -/
  env : List PortEvent
  /-- the model's: the requests answered so far, each with its response, oldest first (R29, R36) -/
  history : List (Request × Response)
deriving DecidableEq, Repr

/-- No request and no condition stops the block (R89, R98), and it has no memory whose access could fail
(R31): there is no fault. -/
inductive Fault
deriving DecidableEq, Repr

/-- Why the model takes no step. -/
inductive Refusal where
  /-- An instruction without a meaning; raised by no arm. Safe: nothing can be proved of such a step. -/
  | notModelled (mnemonic : String)
  /-- `step` refuses a configuration whose `ORIGIN_TAG` is 0 (R9). Safe: the spec asks for it, and nothing
  can be proved of such a build. -/
  | originTagZero
  /-- The acceptance of a request and CKSUM refuse a buffer longer than `CK_MAX_LEN` (R60). Safe: "a model
  has no step for it (a refusal, which errs toward unprovable)". -/
  | bufferTooLong
deriving DecidableEq, Repr

/-- The state after reset of a block built with configuration `c`: the ports idle and empty (R30, R105),
the environment silent, nothing answered. -/
def State.ofConfig (c : Config) : State :=
  { config := c, reqPort := none, respPort := none, env := [], history := [] }

/-- The machine right after reset (R30). The configuration is not the reset's doing (R105): its values are
the model's defaults (assumptions 1 to 3). -/
def State.reset : State :=
  State.ofConfig defaultConfig

end Sys2Proof.Machine
end

