-- ==== Sys2Proof/Machine/Flags.lean ====
section
/-! DEFINITION. The status word (10_state.md R21) and the six values it can take (60_exceptions.md R94). -/

namespace Sys2Proof.Machine

/-- The six named bits of the status word (R21). -/
structure StatusBits where
  ok : Bool
  rangeErr : Bool
  rangeData : Bool
  zeroType : Bool
  fmtErr : Bool
  illegal : Bool
deriving DecidableEq, Repr

/-- No bit set: every response writes every bit of the status word anew (R21). -/
def noStatus : StatusBits :=
  { ok := false, rangeErr := false, rangeData := false, zeroType := false, fmtErr := false,
    illegal := false }

/-- The status word's layout (R21): OK is bit 0, RANGE_ERR 1, RANGE_DATA 2, ZERO_TYPE 3, FMT_ERR 4,
ILLEGAL 5; bits 31:6 are reserved and 0. -/
def statusWord (b : StatusBits) : Word :=
  0#26 ++ BitVec.ofBool b.illegal ++ BitVec.ofBool b.fmtErr ++ BitVec.ofBool b.zeroType ++
    BitVec.ofBool b.rangeData ++ BitVec.ofBool b.rangeErr ++ BitVec.ofBool b.ok

/-- The named bits of a status word, for a reader of a response (R21). -/
def statusBits (w : Word) : StatusBits :=
  { ok := w.getLsbD 0, rangeErr := w.getLsbD 1, rangeData := w.getLsbD 2, zeroType := w.getLsbD 3,
    fmtErr := w.getLsbD 4, illegal := w.getLsbD 5 }

/-- Success (R94). -/
def statusOk : Word := statusWord { noStatus with ok := true }

/-- DECODE extracted type 0, and succeeded (R84, R91). -/
def statusZeroType : Word := statusWord { noStatus with ok := true, zeroType := true }

/-- PACK's field or ENCODE's `type` was out of range (R90). -/
def statusRange : Word := statusWord { noStatus with rangeErr := true }

/-- ENCODE's `data` was out of range (R90). -/
def statusRangeData : Word := statusWord { noStatus with rangeErr := true, rangeData := true }

/-- A field descriptor the operation reads is not well formed (R92). -/
def statusFmt : Word := statusWord { noStatus with fmtErr := true }

/-- The command word is not a legal encoding (R93). -/
def statusIllegal : Word := statusWord { noStatus with illegal := true }

end Sys2Proof.Machine
end

