-- ==== Sys2Proof/Machine/Operands.lean ====
section
/-! DEFINITION. What the operations compute from their operands: the low byte and its zero extension, the
bit length, the check of a field descriptor, the range check, the placing and the extraction of a field
(00_scope.md R10 to R12; 41_field_packing.md R67, R68; 42_word_codec.md R82). -/

namespace Sys2Proof.Machine

/-- `zext_32(b)`: bits 7:0 are `b`, bits 31:8 are 0 (R10). -/
def zext32 (b : Byte) : Word :=
  b.setWidth 32

/-- `v[7:0]` (R10): what CKSTEP takes of each of its operands (R64). -/
def lowByte (v : Word) : Byte :=
  v.extractLsb' 0 8

/-- The number of bits needed to write the low `n` bits of `m`: one more than the index of the highest bit
set below bit `n`, 0 where none is. -/
def bitlenBelow (m : Word) : Nat → Nat
  | 0 => 0
  | n + 1 => if m.getLsbD n then n + 1 else bitlenBelow m n

/-- `bitlen(m)`: 0 for 0, and otherwise one more than the index of the highest set bit of `m` (R12). -/
def bitlen (m : Word) : Nat :=
  bitlenBelow m 32

/-- `WF(fd)`: the offset is a legal shift amount and the field ends within the word (R67). -/
def fieldWF (fd : FieldDesc) : Bool :=
  decide (fd.off.toNat ≤ 31) && decide (fd.off.toNat + bitlen fd.mask ≤ 32)

/-- `InRange(v, fd)`: the raw value sets no bit outside the mask; the offset plays no part (R68). -/
def inRange (v : Word) (fd : FieldDesc) : Bool :=
  (v &&& fd.mask) == v

/-- `v << fd.off`: a value shifted to its field's place (R11, R70). -/
def place (v : Word) (fd : FieldDesc) : Word :=
  v <<< fd.off.toNat

/-- `Extract(w, fd)`: a logical shift right, then the mask (R82). -/
def extract (w : Word) (fd : FieldDesc) : Word :=
  (w >>> fd.off.toNat) &&& fd.mask

end Sys2Proof.Machine
end

