-- ==== Sys2Proof/WellFormed.lean ====
section
/-! DEFINITION. The two checks that stand outside a request's answer: a build whose origin tag is zero is
ill formed (00_scope.md R9), and a build may bound the buffer of CKSUM (40_checksum.md R60). The check of
a field descriptor is NOT here: an ill-formed descriptor is answered, with FMT_ERR (41_field_packing.md
R67), so it belongs to the meanings (Machine/Operands.lean). -/

namespace Sys2Proof

/-- A configuration is well formed exactly when `ORIGIN_TAG` is not zero (R9). -/
def Config.wellFormed (c : Config) : Bool :=
  c.originTag != 0

/-- A CKSUM buffer is no longer than `CK_MAX_LEN`; with `CK_MAX_LEN` unbounded every buffer fits (R60). -/
def Config.fitsMaxLen (c : Config) (buf : List Byte) : Bool :=
  match c.ckMaxLen with
  | none => true
  | some m => decide (buf.length ≤ m)

/-- The block accepts this instruction under this configuration: only a CKSUM whose buffer is too long
is refused (R60, R51). -/
def Instr.wellFormed (c : Config) : Instr → Bool
  | .cksum buf => c.fitsMaxLen buf
  | .ckstep _ _ => true
  | .pack _ _ _ => true
  | .encode _ _ _ _ => true
  | .decode _ _ _ => true

end Sys2Proof
end

