-- ==== Sys2Proof/Machine/Ops.lean ====
section
/-! DEFINITION. The named operations the meanings share: reading the table and running the checksum, the
helper that range-checks and merges a field, sending a response, reporting a condition, accepting a
request, and reset. The block takes no exception and returns from none (60_exceptions.md R89, R97, R98):
what stands here in their place is a condition reported in the response. -/

namespace Sys2Proof.Machine

/-- `CK_TABLE[i]`: every index is a byte, so every read is in range (R32, R34). -/
def tableRead (c : Config) (i : Byte) : Byte :=
  c.ckTable[i.toNat]'(i.isLt)

/-- The seed of the checksum accumulator, fixed (R59). -/
def seed : Byte := 0xFF

/-- One update of the accumulator: `CK_TABLE[(acc ^ x) & 0xFF]` (R61, R64). -/
def ckUpdate (c : Config) (acc x : Byte) : Byte :=
  tableRead c (acc ^^^ x)

/-- The loop of R61 from a given accumulator: the bytes in order, element 0 first. -/
def checksumFrom (c : Config) : Byte → List Byte → Byte
  | acc, [] => acc
  | acc, x :: rest => checksumFrom c (ckUpdate c acc x) rest

/-- The checksum of a buffer (R59, R61). -/
def checksum (c : Config) (buf : List Byte) : Byte :=
  checksumFrom c seed buf

/-- The source's `pack_field(word, value, field)` on a well-formed descriptor: the word with the value
merged by OR, or the range diagnostic and no word (R68 to R70). -/
def packField (word value : Word) (fd : FieldDesc) : Except Diag Word :=
  if inRange value fd then .ok (word ||| place value fd)
  else .error (.rangeViolation value fd.mask)

/-- A successful response. -/
def okResponse (r0 r1 : Word) : Response :=
  { status := statusOk, r0 := r0, r1 := r1, diag := none }

/-- The response to an ill-formed field descriptor (R67, R92). -/
def fmtErrResponse : Response :=
  { status := statusFmt, r0 := 0, r1 := 0, diag := none }

/-- The response to an illegal command word (R46, R93). -/
def illegalResponse : Response :=
  { status := statusIllegal, r0 := 0, r1 := 0, diag := none }

/-- The response to a range violation: the status says which field failed, `r0` is the operation's, and the
one event stands in `diag` (R69, R90). -/
def rangeResponse (status r0 : Word) (d : Diag) : Response :=
  { status := status, r0 := r0, r1 := 0, diag := some d }

/-- `respond(...)` (R13, R20): the response goes out on the response port, the request port is idle again,
and the request it answers is entered in the run with it (R29, R36). It waits for nobody (R115). -/
def State.respond (s : State) (p : Response) : State :=
  { s with
    reqPort := none
    respPort := some p
    history := s.history ++ s.reqPort.toList.map (fun r => (r, p)) }

/-- Answer with `p`, unless a descriptor the operation reads is ill formed: the operation then computes
nothing and answers FMT_ERR (R67, R96). -/
def State.respondChecked (s : State) (fds : List FieldDesc) (p : Response) : State :=
  if fds.all fieldWF then s.respond p else s.respond fmtErrResponse

/-- Reset (R105): a request in progress is discarded without a response or an event; the ports are idle and
empty; the configuration is untouched, and so are what was answered before and what the environment does
next. -/
def State.assertReset (s : State) : State :=
  { s with reqPort := none, respPort := none }

/-- The block would accept this request: all but a CKSUM longer than `CK_MAX_LEN` (R60). An illegal command
word is accepted, and answered (R46). -/
def acceptable (c : Config) (r : Request) : Bool :=
  match decode r with
  | .ok i => i.wellFormed c
  | .error _ => true

/-- Accept a request: it stands in the request port until it is answered (R30, R36); one that is not
accepted is refused, and there is no step for it (R60). -/
def accept (r : Request) (s : State) : Host.Outcome State Fault Refusal :=
  if acceptable s.config r then .next { s with reqPort := some r } else .refused .bufferTooLong

/-- Answer an illegal command word, whatever it was (R46, R93). -/
def reportIllegal (s : State) : Host.Outcome State Fault Refusal :=
  .next (s.respond illegalResponse)

end Sys2Proof.Machine
end

