-- ==== Sys2Proof/Machine/Checksum.lean ====
section
/-! DEFINITION. The checksum family: CKSUM and CKSTEP (40_checksum.md R61, R64). -/

namespace Sys2Proof.Machine

/-- CKSUM (R61): `r0` is the zero-extended checksum of the buffer. It cannot fail; a buffer longer than
`CK_MAX_LEN` is refused before it starts (R60). -/
def execCksum (buf : List Byte) (s : State) : Host.Outcome State Fault Refusal :=
  if s.config.fitsMaxLen buf then .next (s.respond (okResponse (zext32 (checksum s.config buf)) 0))
  else .refused .bufferTooLong

/-- CKSTEP (R64): one update, the accumulator in `a[7:0]` and the byte in `b[7:0]`; the bits above are
ignored. It cannot fail. -/
def execCkstep (a b : Word) (s : State) : Host.Outcome State Fault Refusal :=
  .next (s.respond (okResponse (zext32 (ckUpdate s.config (lowByte a) (lowByte b))) 0))

end Sys2Proof.Machine
end

