-- ==== Sys2Proof/Machine/Codec.lean ====
section
/-! DEFINITION. The register-word codec: ENCODE and DECODE (42_word_codec.md R78, R83). -/

namespace Sys2Proof.Machine

/-- What ENCODE answers when both descriptors are well formed (R78): from a zero word, the type is merged,
then the data, each after its range check; the first failure ends it with the sentinel 0 (R79, R81), and
a success carries the origin tag (R80). -/
def encodeResponse (c : Config) (t d : Word) (tf df : FieldDesc) : Response :=
  match packField 0 t tf with
  | .error e => rangeResponse statusRange 0 e
  | .ok w =>
    match packField w d df with
    | .error e => rangeResponse statusRangeData 0 e
    | .ok w' => okResponse (w' ||| c.originTag) 0

/-- What DECODE answers when both descriptors are well formed (R83): the two extractions; a type of 0 is
reported, not rejected (R84), and nothing else is checked (R85). -/
def decodeResponse (word : Word) (tf df : FieldDesc) : Response :=
  if extract word tf = 0 then
    { status := statusZeroType, r0 := 0, r1 := extract word df, diag := some .zeroType }
  else okResponse (extract word tf) (extract word df)

/-- ENCODE (R78): both descriptors are checked first (R67, R96). -/
def execEncode (t d : Word) (tf df : FieldDesc) (s : State) : Host.Outcome State Fault Refusal :=
  .next (s.respondChecked [tf, df] (encodeResponse s.config t d tf df))

/-- DECODE (R83): both descriptors are checked first (R67, R96). -/
def execDecode (word : Word) (tf df : FieldDesc) (s : State) : Host.Outcome State Fault Refusal :=
  .next (s.respondChecked [tf, df] (decodeResponse word tf df))

end Sys2Proof.Machine
end

