-- ==== Sys2Proof/Machine/FieldPack.lean ====
section
/-! DEFINITION. The field packing family: PACK (41_field_packing.md R70). -/

namespace Sys2Proof.Machine

/-- What PACK answers when its descriptor is well formed: the merged word, or its word unmodified with the
range violation (R70). -/
def packResponse (word value : Word) (field : FieldDesc) : Response :=
  match packField word value field with
  | .ok w => okResponse w 0
  | .error d => rangeResponse statusRange word d

/-- PACK (R70): the descriptor is checked first (R67), then the value (R68). -/
def execPack (word value : Word) (field : FieldDesc) (s : State) : Host.Outcome State Fault Refusal :=
  .next (s.respondChecked [field] (packResponse word value field))

end Sys2Proof.Machine
end

