-- ==== Sys2Proof/Machine/Dispatch.lean ====
section
/-! DEFINITION. The dispatch: one arm per operation of the opcode map (30_encoding.md R44). -/

namespace Sys2Proof.Machine

def exec (i : Instr) (s : State) : Host.Outcome State Fault Refusal :=
  match i with
  | .cksum buf => Sys2Proof.Machine.execCksum buf s
  | .ckstep a b => Sys2Proof.Machine.execCkstep a b s
  | .pack word value field => Sys2Proof.Machine.execPack word value field s
  | .encode t d tf df => Sys2Proof.Machine.execEncode t d tf df s
  | .decode word tf df => Sys2Proof.Machine.execDecode word tf df s

end Sys2Proof.Machine
end

