-- ==== Sys2Proof/Machine/Serve.lean ====
section
/-! DEFINITION. What the block does next at its ports, and the answering of the request in its request port
(20_memory.md R36, R37; 60_exceptions.md R96; 70_reset_and_hazards.md R105). -/

namespace Sys2Proof.Machine

/-- The next act of the block and its environment. -/
inductive Action where
  /-- reset is asserted; `rest` is what the environment does after it -/
  | reset (rest : List PortEvent)
  /-- the request in the port is answered -/
  | answer (r : Request)
  /-- the port is idle and a requester presents a request -/
  | accept (r : Request) (rest : List PortEvent)
  /-- the port is idle and the environment let the time pass -/
  | quiet (rest : List PortEvent)
  /-- the port is idle and nothing is to come -/
  | idle
deriving DecidableEq, Repr

/-- A reset lands at any time (R115), also on a request in progress (R105). Otherwise the request in
progress is answered before another is accepted (R37), and requests are accepted in the order the
environment chose (R36). -/
def State.nextAction (s : State) : Action :=
  match s.env, s.reqPort with
  | .reset :: rest, _ => .reset rest
  | [], some r => .answer r
  | .request _ :: _, some r => .answer r
  | .quiet :: _, some r => .answer r
  | .request r :: rest, none => .accept r rest
  | .quiet :: rest, none => .quiet rest
  | [], none => .idle

/-- Answer a request in one indivisible step (R37): the command word is looked at first (R96); a legal one
is executed, an illegal one reported (R46). -/
def serve (r : Request) (s : State) : Host.Outcome State Fault Refusal :=
  match decode r with
  | .ok i => exec i s
  | .error _ => reportIllegal s

/-- The environment with a quiet time before a reset that would come first: used to place a request that
the very next step answers. -/
def shieldReset : List PortEvent → List PortEvent
  | [] => []
  | .reset :: rest => .quiet :: .reset :: rest
  | .request r :: rest => .request r :: rest
  | .quiet :: rest => .quiet :: rest

end Sys2Proof.Machine
end

