-- ==== Sys2Proof/Machine/Step.lean ====
section
/-! DEFINITION. One step: one act at the ports (20_memory.md R36, R37). -/

namespace Sys2Proof.Machine

/-- A build with a zero origin tag is refused (R9). Otherwise one act: a reset, the answering of the
request in progress, the acceptance of a request, the passing of a quiet time, or, with nothing to do,
nothing: the block waits, unchanged. -/
def step (s : State) : Host.Outcome State Fault Refusal :=
  if s.config.wellFormed then
    match s.nextAction with
    | .reset rest => .next ({ s with env := rest } : State).assertReset
    | .answer r => serve r s
    | .accept r rest => accept r { s with env := rest }
    | .quiet rest => .next { s with env := rest }
    | .idle => .next s
  else .refused .originTagZero

/-- `s` with the request that the table's bits stand for accepted in the request port, so that the next
step answers it; a reset that would come first is put off until then (assumption 11). -/
def State.withFetchWord (s : State) (nbits w : Nat) : State :=
  { s with reqPort := some (Request.ofTableWord nbits w), env := shieldReset s.env }

end Sys2Proof.Machine
end

