-- ==== Sys2Proof/Safety.lean ====
section
/-! DEFINITION. The terms the statements use: a request ready to be answered, the answer the rules give a
request, the invariant of the ports and the run, several steps, a streamed checksum, and a request's read
fields. They are written over the raw request and the spec's own numbers, not over the meanings. -/

namespace Sys2Proof.Machine

/-- A request stands in the port, no reset comes first, and the build is well formed: the next step answers
the request. -/
structure Ready (s : State) (r : Request) : Prop where
  config : s.config.originTag ≠ 0
  port : s.reqPort = some r
  noReset : ∀ rest, s.env ≠ .reset :: rest

/-- `s` after the response `p` went out: the port is idle, the response stands in the response port, the
request answered is entered in the run with it, and everything else is as before (R20, R36). -/
def answered (s : State) (p : Response) : State :=
  { config := s.config
    reqPort := none
    respPort := some p
    env := s.env
    history := s.history ++ s.reqPort.toList.map (fun r => (r, p)) }

/-- The buffer is no longer than `CK_MAX_LEN`; with `CK_MAX_LEN` unbounded every buffer is (R60). -/
def Fits (c : Config) (buf : List Byte) : Prop :=
  ∀ m, c.ckMaxLen = some m → buf.length ≤ m

/-- One of the five command words of the opcode map (R44). -/
abbrev LegalCmd (cmd : Word) : Prop :=
  cmd = 0x00000001 ∨ cmd = 0x00000002 ∨ cmd = 0x00000003 ∨ cmd = 0x00000004 ∨ cmd = 0x00000005

/-- `WF(fd)` as R67 writes it. -/
abbrev WFDesc (fd : FieldDesc) : Prop :=
  fd.off.toNat ≤ 31 ∧ fd.off.toNat + bitlen fd.mask ≤ 32

/-- `InRange(v, fd)` as R68 writes it. -/
abbrev InRange (v : Word) (fd : FieldDesc) : Prop :=
  v &&& fd.mask = v

/-- The checksum of a buffer from a given accumulator, as the loop of R61 (R66 item 3). -/
def loopFrom (c : Config) (acc : Byte) (buf : List Byte) : Byte :=
  buf.foldl (fun acc x => tableRead c (acc ^^^ x)) acc

/-- The response `p` is the one the rules give the request `r` under the configuration `c`
(R46, R61, R64, R67, R70, R78, R83): one clause per case, the cases in the order of R96. -/
structure Answers (c : Config) (r : Request) (p : Response) : Prop where
  illegal : ¬ LegalCmd r.cmd → p = ⟨0x00000020, 0, 0, none⟩
  cksum : r.cmd = 1 → p = ⟨0x00000001, zext32 (loopFrom c 0xFF r.buf), 0, none⟩
  ckstep : r.cmd = 2 →
    p = ⟨0x00000001, zext32 (tableRead c (lowByte r.a ^^^ lowByte r.b)), 0, none⟩
  packFmt : r.cmd = 3 → ¬ WFDesc r.tf → p = ⟨0x00000010, 0, 0, none⟩
  packOk : r.cmd = 3 → WFDesc r.tf → InRange r.b r.tf →
    p = ⟨0x00000001, r.a ||| (r.b <<< r.tf.off.toNat), 0, none⟩
  packRange : r.cmd = 3 → WFDesc r.tf → ¬ InRange r.b r.tf →
    p = ⟨0x00000002, r.a, 0, some (.rangeViolation r.b r.tf.mask)⟩
  codecFmt : r.cmd = 4 ∨ r.cmd = 5 → ¬ (WFDesc r.tf ∧ WFDesc r.df) → p = ⟨0x00000010, 0, 0, none⟩
  encodeType : r.cmd = 4 → WFDesc r.tf → WFDesc r.df → ¬ InRange r.a r.tf →
    p = ⟨0x00000002, 0, 0, some (.rangeViolation r.a r.tf.mask)⟩
  encodeData : r.cmd = 4 → WFDesc r.tf → WFDesc r.df → InRange r.a r.tf → ¬ InRange r.b r.df →
    p = ⟨0x00000006, 0, 0, some (.rangeViolation r.b r.df.mask)⟩
  encodeOk : r.cmd = 4 → WFDesc r.tf → WFDesc r.df → InRange r.a r.tf → InRange r.b r.df →
    p = ⟨0x00000001, (r.a <<< r.tf.off.toNat) ||| (r.b <<< r.df.off.toNat) ||| c.originTag, 0, none⟩
  decodeZero : r.cmd = 5 → WFDesc r.tf → WFDesc r.df →
    (r.a >>> r.tf.off.toNat) &&& r.tf.mask = 0 →
    p = ⟨0x00000009, 0, (r.a >>> r.df.off.toNat) &&& r.df.mask, some .zeroType⟩
  decodeOk : r.cmd = 5 → WFDesc r.tf → WFDesc r.df →
    (r.a >>> r.tf.off.toNat) &&& r.tf.mask ≠ 0 →
    p = ⟨0x00000001, (r.a >>> r.tf.off.toNat) &&& r.tf.mask,
      (r.a >>> r.df.off.toNat) &&& r.df.mask, none⟩

/-- The invariant of the block: the build is well formed (R9); the request port holds no request the block
does not accept (R60); every entry of the run is a request with the response the rules give it (R29, R38);
and the response port is empty or holds the response of the run's last entry (R30, R36). -/
structure Inv (s : State) : Prop where
  config : s.config.originTag ≠ 0
  port : ∀ r, s.reqPort = some r → r.cmd = 1 → Fits s.config r.buf
  run : ∀ e ∈ s.history, Answers s.config e.1 e.2
  response : s.respPort = none ∨ ∃ e, s.history.getLast? = some e ∧ s.respPort = some e.2

/-- `n` steps, ending at the first that answers no next state. -/
def steps : Nat → State → Host.Outcome State Fault Refusal
  | 0, s => .next s
  | n + 1, s =>
    match step s with
    | .next t => steps n t
    | .fault f => .fault f
    | .refused e => .refused e

/-- The requester's loop of R65: issue CKSTEP for each byte in order, feeding `r0[7:0]` of each response
back as the next accumulator; the last accumulator, and none if a request gets no response. -/
def streamed : State → Byte → List Byte → Option Byte
  | _, acc, [] => some acc
  | s, acc, x :: rest =>
    match exec (.ckstep (zext32 acc) (zext32 x)) s with
    | .next t =>
      match t.respPort with
      | some p => streamed t (lowByte p.r0) rest
      | none => none
    | .fault _ => none
    | .refused _ => none

/-- The request with every field its operation does not read set to 0 (R47). -/
def keepRead (r : Request) : Request :=
  if r.cmd = 1 then { Request.ofCmd r.cmd with buf := r.buf }
  else if r.cmd = 2 then { Request.ofCmd r.cmd with a := r.a, b := r.b }
  else if r.cmd = 3 then { Request.ofCmd r.cmd with a := r.a, b := r.b, tf := r.tf }
  else if r.cmd = 4 then { Request.ofCmd r.cmd with a := r.a, b := r.b, tf := r.tf, df := r.df }
  else if r.cmd = 5 then { Request.ofCmd r.cmd with a := r.a, tf := r.tf, df := r.df }
  else Request.ofCmd r.cmd

/-- Two requests agree on everything R47 says their operation reads. -/
structure SameRead (r r' : Request) : Prop where
  cmd : r.cmd = r'.cmd
  buf : r.cmd = 1 → r.buf = r'.buf
  accumulator : r.cmd = 2 → lowByte r.a = lowByte r'.a
  byte : r.cmd = 2 → lowByte r.b = lowByte r'.b
  first : r.cmd = 3 ∨ r.cmd = 4 ∨ r.cmd = 5 → r.a = r'.a ∧ r.tf = r'.tf
  second : r.cmd = 3 ∨ r.cmd = 4 → r.b = r'.b
  format : r.cmd = 4 ∨ r.cmd = 5 → r.df = r'.df

end Sys2Proof.Machine
end

