-- ==== Sys2Proof/Certificates/Slice0/Obligations.lean ====
section
/-! DEFINITION. The statements for the provers. A statement about every state is a statement about every
configuration: `CK_TABLE`, `ORIGIN_TAG` and `CK_MAX_LEN` stand in the state and nothing is assumed of them
that is not a hypothesis. -/

open Sys2Proof Sys2Proof.Machine

/-! ### Requests, command words, assembly lines -/

/-- R43, R44, R45: a command word is legal exactly when its `RSV` (bits 31:4) is 0 and its `OP` (bits 3:0) is
1 to 5; the legal words are 1 to 5; each selects its operation; every other word is illegal. -/
def Obligations.LegalCommandWordsSelectTheOperations : Prop :=
  (∀ cmd : Word, (cmd.toNat / 16 = 0 ∧ 1 ≤ cmd.toNat % 16 ∧ cmd.toNat % 16 ≤ 5) ↔ LegalCmd cmd) ∧
  (∀ r : Request, (∃ i, decode r = .ok i) ↔ LegalCmd r.cmd) ∧
  (∀ r : Request, r.cmd = 0x00000001 → ∃ buf, decode r = .ok (.cksum buf)) ∧
  (∀ r : Request, r.cmd = 0x00000002 → ∃ a b, decode r = .ok (.ckstep a b)) ∧
  (∀ r : Request, r.cmd = 0x00000003 → ∃ w v fd, decode r = .ok (.pack w v fd)) ∧
  (∀ r : Request, r.cmd = 0x00000004 → ∃ t d tf df, decode r = .ok (.encode t d tf df)) ∧
  (∀ r : Request, r.cmd = 0x00000005 → ∃ w tf df, decode r = .ok (.decode w tf df))

/-- Decoding and encoding agree: an encoded instruction decodes to itself with every operand, and a request
that decodes to `i` is, up to the fields R47 marks ignored, the encoding of `i`. -/
def Obligations.DecodeAndEncodeAgree : Prop :=
  (∀ i : Instr, decode (encode i) = .ok i) ∧
  (∀ (r : Request) (i : Instr), decode r = .ok i → encode i = keepRead r)

/-- The five words of the opcode table decode to their instructions, the words around them and words with a
reserved bit do not (30_encoding.md section 1, and vectors X1, X2, X6, X7 of 95_test_vectors.md). That a table
row's bits are `cmd`, with every other field 0 as on the `.word` line of 30_encoding.md section 4, is the model's
own device (assumption 12, DESIGN CHOICE). -/
def Obligations.TableWordsDecode : Prop :=
  decodeTableWord 32 0x00000001 = some (.cksum []) ∧
  decodeTableWord 32 0x00000002 = some (.ckstep 0 0) ∧
  decodeTableWord 32 0x00000003 = some (.pack 0 0 ⟨0, 0⟩) ∧
  decodeTableWord 32 0x00000004 = some (.encode 0 0 ⟨0, 0⟩ ⟨0, 0⟩) ∧
  decodeTableWord 32 0x00000005 = some (.decode 0 ⟨0, 0⟩ ⟨0, 0⟩) ∧
  decodeTableWord 32 0x00000000 = none ∧
  decodeTableWord 32 0x00000006 = none ∧
  decodeTableWord 32 0x00000011 = none ∧
  decodeTableWord 32 0x80000001 = none

/-- R54: the request of each assembly line; the fields a line does not name are 0. -/
def Obligations.AssemblyLinesAreTheirRequests : Prop :=
  (∀ buf, assemble (.instr (.cksum buf)) = ⟨0x1, 0, 0, ⟨0, 0⟩, ⟨0, 0⟩, buf⟩) ∧
  (∀ acc byte, assemble (.instr (.ckstep acc byte)) = ⟨0x2, acc, byte, ⟨0, 0⟩, ⟨0, 0⟩, []⟩) ∧
  (∀ word value off mask,
    assemble (.instr (.pack word value ⟨off, mask⟩)) = ⟨0x3, word, value, ⟨off, mask⟩, ⟨0, 0⟩, []⟩) ∧
  (∀ t d toff tmask doff dmask, assemble (.instr (.encode t d ⟨toff, tmask⟩ ⟨doff, dmask⟩)) =
    ⟨0x4, t, d, ⟨toff, tmask⟩, ⟨doff, dmask⟩, []⟩) ∧
  (∀ word toff tmask doff dmask, assemble (.instr (.decode word ⟨toff, tmask⟩ ⟨doff, dmask⟩)) =
    ⟨0x5, word, 0, ⟨toff, tmask⟩, ⟨doff, dmask⟩, []⟩) ∧
  (∀ cmd, assemble (.word cmd) = ⟨cmd, 0, 0, ⟨0, 0⟩, ⟨0, 0⟩, []⟩)

/-- The pseudo-instructions (the spec's inferences in 30_encoding.md section 4): CKSEED answers the seed,
TBLRD x the table entry `x`, and RANGECHK's verdict is the OK bit, with the event of a failing value. -/
def Obligations.PseudoInstructionsDoWhatTheyExpandTo : Prop :=
  (∀ s : State, exec Pseudo.ckseed.expand s = .next (answered s ⟨1, 0x000000FF, 0, none⟩)) ∧
  (∀ (s : State) (x : Byte), exec (Pseudo.tblrd x).expand s =
    .next (answered s ⟨1, (tableRead s.config x).setWidth 32, 0, none⟩)) ∧
  (∀ (s : State) (v : Word) (fd : FieldDesc), WFDesc fd → InRange v fd →
    exec (Pseudo.rangechk v fd).expand s =
      .next (answered s ⟨1, v <<< fd.off.toNat, 0, none⟩)) ∧
  (∀ (s : State) (v : Word) (fd : FieldDesc), WFDesc fd → ¬ InRange v fd →
    exec (Pseudo.rangechk v fd).expand s =
      .next (answered s ⟨2, 0, 0, some (.rangeViolation v fd.mask)⟩))

/-- The layout of the status word (10_state.md section 4): the six named bits at 0 to 5, the others 0, and a
reader of the word reads back the bits that were set. -/
def Obligations.StatusWordLayout : Prop :=
  ∀ b : StatusBits,
    (statusWord b).getLsbD 0 = b.ok ∧ (statusWord b).getLsbD 1 = b.rangeErr ∧
    (statusWord b).getLsbD 2 = b.rangeData ∧ (statusWord b).getLsbD 3 = b.zeroType ∧
    (statusWord b).getLsbD 4 = b.fmtErr ∧ (statusWord b).getLsbD 5 = b.illegal ∧
    (∀ k, 6 ≤ k → (statusWord b).getLsbD k = false) ∧
    statusBits (statusWord b) = b

/-! ### Checksum -/

/-- R59, R61: CKSUM reads the buffer alone, starts at 0xFF, passes the bytes in order through the table, and
answers the zero-extended accumulator with OK; the empty buffer gives the seed and a single byte `x` gives
`CK_TABLE[0xFF ^ x]`; for every table. A buffer longer than `CK_MAX_LEN` is refused before it starts. Nothing
but the ports and the run changes. -/
def Obligations.CksumAnswersTheChecksumOfTheBuffer : Prop :=
  (∀ r : Request, r.cmd = 0x00000001 → decode r = .ok (.cksum r.buf)) ∧
  (∀ (s : State) (buf : List Byte), Fits s.config buf →
    exec (.cksum buf) s = .next (answered s ⟨0x00000001,
      (buf.foldl (fun acc b => tableRead s.config (acc ^^^ b)) (0xFF : Byte)).setWidth 32, 0, none⟩)) ∧
  (∀ (s : State) (buf : List Byte), ¬ Fits s.config buf →
    exec (.cksum buf) s = .refused .bufferTooLong) ∧
  (∀ s : State, exec (.cksum []) s = .next (answered s ⟨0x00000001, 0x000000FF, 0, none⟩)) ∧
  (∀ (s : State) (x : Byte), Fits s.config [x] →
    exec (.cksum [x]) s = .next (answered s ⟨0x00000001,
      (tableRead s.config (0xFF ^^^ x)).setWidth 32, 0, none⟩))

/-- A CKSUM request longer than `CK_MAX_LEN` is not accepted, gets no response and has no step; one that fits,
and every one where `CK_MAX_LEN` is unbounded, is accepted (40_checksum.md section 1). How this shows is the
model's: the refusal falls both on the presentation and on CKSUM itself (assumption 5, DEDUCED), requests are
presented by a list of the environment's acts (assumption 6, DESIGN CHOICE), and acceptance is a step of its
own, which moves the head of that list into the port (assumption 7, DEDUCED). -/
def Obligations.CksumTooLongIsRefused : Prop :=
  (∀ (s : State) (r : Request) (rest : List PortEvent) (m : Nat), s.config.originTag ≠ 0 →
    s.reqPort = none → s.env = .request r :: rest → r.cmd = 0x00000001 →
    s.config.ckMaxLen = some m → m < r.buf.length → step s = .refused .bufferTooLong) ∧
  (∀ (s : State) (buf : List Byte) (m : Nat), s.config.ckMaxLen = some m → m < buf.length →
    exec (.cksum buf) s = .refused .bufferTooLong) ∧
  (∀ (s : State) (r : Request) (rest : List PortEvent) (m : Nat), s.config.originTag ≠ 0 →
    s.reqPort = none → s.env = .request r :: rest → r.cmd = 0x00000001 →
    s.config.ckMaxLen = some m → r.buf.length ≤ m →
    step s = .next { s with env := rest, reqPort := some r }) ∧
  (∀ (s : State) (r : Request) (rest : List PortEvent), s.config.originTag ≠ 0 →
    s.reqPort = none → s.env = .request r :: rest → r.cmd = 0x00000001 →
    s.config.ckMaxLen = none → step s = .next { s with env := rest, reqPort := some r })

/-- R64: CKSTEP answers `CK_TABLE[a[7:0] ^ b[7:0]]`, zero-extended, with OK, for every table; the bits above 7
of `a` and of `b` and every other field are ignored; with `a` 0 it reads the entry `b` names. -/
def Obligations.CkstepAnswersOneUpdate : Prop :=
  (∀ r : Request, r.cmd = 0x00000002 → decode r = .ok (.ckstep r.a r.b)) ∧
  (∀ (s : State) (a b : Word), exec (.ckstep a b) s = .next (answered s ⟨0x00000001,
    (tableRead s.config (a.setWidth 8 ^^^ b.setWidth 8)).setWidth 32, 0, none⟩)) ∧
  (∀ (s : State) (a a' b b' : Word), a.setWidth 8 = a'.setWidth 8 → b.setWidth 8 = b'.setWidth 8 →
    exec (.ckstep a b) s = exec (.ckstep a' b') s) ∧
  (∀ (s : State) (x : Byte), exec (.ckstep 0 (x.setWidth 32)) s = .next (answered s ⟨0x00000001,
    (tableRead s.config x).setWidth 32, 0, none⟩))

/-- The spec's inference of 40_checksum.md section 3, first law: feeding each CKSTEP's result back as the next
accumulator, from 0xFF, through the bytes of a buffer, gives what one CKSUM of the buffer answers. -/
def Obligations.StreamedCkstepsAgreeWithCksum : Prop :=
  ∀ (s : State) (buf : List Byte), Fits s.config buf →
    ∃ c : Byte, streamed s 0xFF buf = some c ∧
      exec (.cksum buf) s = .next (answered s ⟨1, c.setWidth 32, 0, none⟩)

/-- The spec's inferences of 40_checksum.md section 3, second law: the checksum of `p` followed by `q` is that
of `q` started from that of `p`; and of `p` followed by its own checksum it is `CK_TABLE[0]`. -/
def Obligations.ChecksumOfConcatenationAndOfAppendedChecksum : Prop :=
  (∀ (s : State) (p q : List Byte), Fits s.config (p ++ q) →
    exec (.cksum (p ++ q)) s = .next (answered s
      ⟨1, (loopFrom s.config (loopFrom s.config 0xFF p) q).setWidth 32, 0, none⟩)) ∧
  (∀ (s t : State) (p : List Byte) (w : Response), exec (.cksum p) s = .next t → t.respPort = some w →
    Fits s.config (p ++ [w.r0.setWidth 8]) →
    exec (.cksum (p ++ [w.r0.setWidth 8])) s =
      .next (answered s ⟨1, (tableRead s.config 0).setWidth 32, 0, none⟩))

/-! ### Field descriptors and PACK -/

/-- The bit length (the spec's inference at the end of 00_scope.md section 4): 0 for 0, one more than the index
of the highest set bit, and so at most `k` exactly for the values below `2^k`. -/
def Obligations.BitLengthCountsToTheHighestSetBit : Prop :=
  bitlen 0 = 0 ∧
  (∀ (m : Word) (i : Nat), m.getLsbD i = true → (∀ j, i < j → m.getLsbD j = false) → bitlen m = 1 + i) ∧
  (∀ (m : Word) (k : Nat), bitlen m ≤ k ↔ m.toNat < 2 ^ k) ∧
  bitlen 0xFF = 8 ∧ bitlen 0xFFFF = 16 ∧ bitlen 0x5 = 3 ∧ bitlen 0xFFFFFFFF = 32

/-- The range check (41_field_packing.md section 2, the last clause the spec's own inference): it passes exactly
the values that set no bit outside the mask, whatever the offset; 0 always passes; and for a mask
contiguous from bit 0 it passes exactly the values below `2^w`. -/
def Obligations.RangeCheckPassesValuesWithinTheMask : Prop :=
  (∀ (v : Word) (fd : FieldDesc), inRange v fd = true ↔ v &&& fd.mask = v) ∧
  (∀ (v : Word) (fd : FieldDesc), inRange v fd = true ↔ v &&& ~~~ fd.mask = 0) ∧
  (∀ (v off off' mask : Word), inRange v ⟨off, mask⟩ = inRange v ⟨off', mask⟩) ∧
  (∀ fd : FieldDesc, inRange 0 fd = true) ∧
  (∀ (v off mask : Word) (w : Nat), w ≤ 32 → mask.toNat = 2 ^ w - 1 →
    (inRange v ⟨off, mask⟩ = true ↔ v.toNat < 2 ^ w))

/-- R74: a mask with holes is admitted: a value is in range exactly when each of its set bits is set in the
mask, and `WF` takes the mask's bit length; with the field `(4, 0x5)` the value 4 is placed at 0x40 and the
value 2 is out of range. -/
def Obligations.MasksWithHolesAreAdmitted : Prop :=
  (∀ (v : Word) (fd : FieldDesc),
    inRange v fd = true ↔ ∀ i, v.getLsbD i = true → fd.mask.getLsbD i = true) ∧
  (∀ fd : FieldDesc,
    fieldWF fd = true ↔ fd.off.toNat ≤ 31 ∧ fd.off.toNat + bitlen fd.mask ≤ 32) ∧
  bitlen 0x5 = 3 ∧
  (∀ (s : State) (w : Word), exec (.pack w 0x4 ⟨4, 0x5⟩) s =
    .next (answered s ⟨1, w ||| 0x40, 0, none⟩)) ∧
  (∀ (s : State) (w : Word), exec (.pack w 0x2 ⟨4, 0x5⟩) s =
    .next (answered s ⟨2, w, 0, some (.rangeViolation 0x2 0x5)⟩))

/-- R67, R92: the check `WF`, and that PACK, ENCODE and DECODE with a descriptor that fails it compute nothing
and answer FMT_ERR with zero results and no event, whatever their other operands. -/
def Obligations.IllFormedDescriptorIsReported : Prop :=
  (∀ fd : FieldDesc,
    fieldWF fd = true ↔ fd.off.toNat ≤ 31 ∧ fd.off.toNat + bitlen fd.mask ≤ 32) ∧
  (∀ (s : State) (w v : Word) (fd : FieldDesc), ¬ WFDesc fd →
    exec (.pack w v fd) s = .next (answered s ⟨0x00000010, 0, 0, none⟩)) ∧
  (∀ (s : State) (t d : Word) (tf df : FieldDesc), ¬ WFDesc tf ∨ ¬ WFDesc df →
    exec (.encode t d tf df) s = .next (answered s ⟨0x00000010, 0, 0, none⟩)) ∧
  (∀ (s : State) (w : Word) (tf df : FieldDesc), ¬ WFDesc tf ∨ ¬ WFDesc df →
    exec (.decode w tf df) s = .next (answered s ⟨0x00000010, 0, 0, none⟩))

/-- R70: PACK, its operands, its three answers and its corner cases. Nothing but the ports and the run
changes. -/
def Obligations.PackChecksThenMerges : Prop :=
  (∀ r : Request, r.cmd = 0x00000003 → decode r = .ok (.pack r.a r.b r.tf)) ∧
  (∀ (s : State) (a b : Word) (tf : FieldDesc), ¬ WFDesc tf →
    exec (.pack a b tf) s = .next (answered s ⟨0x00000010, 0, 0, none⟩)) ∧
  (∀ (s : State) (a b : Word) (tf : FieldDesc), WFDesc tf → b &&& tf.mask = b →
    exec (.pack a b tf) s = .next (answered s ⟨0x00000001, a ||| (b <<< tf.off.toNat), 0, none⟩)) ∧
  (∀ (s : State) (a b : Word) (tf : FieldDesc), WFDesc tf → b &&& tf.mask ≠ b →
    exec (.pack a b tf) s =
      .next (answered s ⟨0x00000002, a, 0, some (.rangeViolation b tf.mask)⟩)) ∧
  (∀ (s : State) (a : Word) (tf : FieldDesc), WFDesc tf →
    exec (.pack a 0 tf) s = .next (answered s ⟨0x00000001, a, 0, none⟩)) ∧
  (∀ b off : Word, InRange b ⟨off, 0⟩ ↔ b = 0) ∧
  (∀ (s : State) (a b : Word), exec (.pack a b ⟨0, 0xFFFFFFFF⟩) s =
    .next (answered s ⟨0x00000001, a ||| b, 0, none⟩)) ∧
  WFDesc ⟨31, 0x1⟩ ∧ ¬ WFDesc ⟨31, 0x3⟩ ∧
  (∀ s : State, exec (.pack 0 5 ⟨0, 0xFF⟩) s = .next (answered s ⟨0x00000001, 5, 0, none⟩)) ∧
  (∀ s : State, exec (.pack 0 300 ⟨0, 0xFF⟩) s =
    .next (answered s ⟨0x00000002, 0, 0, some (.rangeViolation 300 0xFF)⟩))

/-- No bit is lost by placing an in-range value (the spec's inference of 41_field_packing.md section 4): the
shift is an exact product, and shifting back gives the value. -/
def Obligations.PlacingAnInRangeValueLosesNoBit : Prop :=
  ∀ (v : Word) (fd : FieldDesc), WFDesc fd → InRange v fd →
    v.toNat ≤ fd.mask.toNat ∧ bitlen v ≤ bitlen fd.mask ∧
    (place v fd).toNat = v.toNat * 2 ^ fd.off.toNat ∧ place v fd >>> fd.off.toNat = v

/-- R72: PACK merges and does not replace: whatever bits of the word are set already, the answer of a PACK in
range is the OR of the word and the placed value, so no set bit of the word is cleared, and a PACK out of
range leaves the word as it was. -/
def Obligations.PackNeverClearsABit : Prop :=
  ∀ (s : State) (a b : Word) (fd : FieldDesc), WFDesc fd →
    ∃ p : Response, exec (.pack a b fd) s = .next (answered s p) ∧ a &&& p.r0 = a ∧
      (InRange b fd → ∀ i, p.r0.getLsbD i = (a.getLsbD i || (b <<< fd.off.toNat).getLsbD i)) ∧
      (¬ InRange b fd → p.r0 = a)

/-- PACK then extract (the spec's inference of 41_field_packing.md section 4): where the word's bits under the
field are 0, extracting the field from PACK's answer gives the packed value. -/
def Obligations.ExtractAfterPackGivesTheValue : Prop :=
  ∀ (s : State) (w v : Word) (fd : FieldDesc), WFDesc fd → InRange v fd →
    (w >>> fd.off.toNat) &&& fd.mask = 0 →
    ∃ p : Response, exec (.pack w v fd) s = .next (answered s p) ∧
      (p.r0 >>> fd.off.toNat) &&& fd.mask = v ∧ extract p.r0 fd = v

/-! ### ENCODE and DECODE -/

/-- R78: ENCODE, its operands and its four answers; type 0 is encoded like any other value, and with both
masks 0 only the message of zeros is. Nothing but the ports and the run changes. -/
def Obligations.EncodeChecksThenComposes : Prop :=
  (∀ r : Request, r.cmd = 0x00000004 → decode r = .ok (.encode r.a r.b r.tf r.df)) ∧
  (∀ (s : State) (a b : Word) (tf df : FieldDesc), ¬ WFDesc tf ∨ ¬ WFDesc df →
    exec (.encode a b tf df) s = .next (answered s ⟨0x00000010, 0, 0, none⟩)) ∧
  (∀ (s : State) (a b : Word) (tf df : FieldDesc), WFDesc tf → WFDesc df → a &&& tf.mask ≠ a →
    exec (.encode a b tf df) s =
      .next (answered s ⟨0x00000002, 0, 0, some (.rangeViolation a tf.mask)⟩)) ∧
  (∀ (s : State) (a b : Word) (tf df : FieldDesc), WFDesc tf → WFDesc df → a &&& tf.mask = a →
    b &&& df.mask ≠ b →
    exec (.encode a b tf df) s =
      .next (answered s ⟨0x00000006, 0, 0, some (.rangeViolation b df.mask)⟩)) ∧
  (∀ (s : State) (a b : Word) (tf df : FieldDesc), WFDesc tf → WFDesc df → a &&& tf.mask = a →
    b &&& df.mask = b →
    exec (.encode a b tf df) s = .next (answered s ⟨0x00000001,
      0 ||| (a <<< tf.off.toNat) ||| (b <<< df.off.toNat) ||| s.config.originTag, 0, none⟩)) ∧
  (∀ (s : State) (a b off off' : Word), off.toNat ≤ 31 → off'.toNat ≤ 31 →
    (∃ w, exec (.encode a b ⟨off, 0⟩ ⟨off', 0⟩) s =
      .next (answered s ⟨0x00000001, w, 0, none⟩)) → a = 0 ∧ b = 0) ∧
  (∀ (s : State) (off off' : Word), off.toNat ≤ 31 → off'.toNat ≤ 31 →
    exec (.encode 0 0 ⟨off, 0⟩ ⟨off', 0⟩) s =
      .next (answered s ⟨0x00000001, s.config.originTag, 0, none⟩)) ∧
  (∀ s : State, exec (.encode 5 1000 ⟨0, 0xFF⟩ ⟨8, 0xFFFF⟩) s =
    .next (answered s ⟨0x00000001, s.config.originTag ||| 0x0003E805, 0, none⟩))

/-- R79: ENCODE checks the type before the data and stops at the first failure: a failed ENCODE has the one
event of the first field that failed, whatever the data, and a successful one has none. -/
def Obligations.EncodeStopsAtTheFirstFailure : Prop :=
  ∀ (s : State) (t d : Word) (tf df : FieldDesc), WFDesc tf → WFDesc df →
    ∃ p : Response, exec (.encode t d tf df) s = .next (answered s p) ∧
      (¬ InRange t tf → p.diag = some (.rangeViolation t tf.mask) ∧
        ∀ d' : Word, exec (.encode t d' tf df) s = .next (answered s p)) ∧
      (InRange t tf → ¬ InRange d df → p.diag = some (.rangeViolation d df.mask)) ∧
      (InRange t tf → InRange d df → p.diag = none)

/-- The origin tag and the sentinel (42_word_codec.md sections 2 and 4, with the spec's inferences there): with
a non-zero tag, ENCODE always answers; the answer carries the tag and is not 0 exactly when OK is set; a
value out of range clears OK and answers 0. -/
def Obligations.EncodeAnswersZeroExactlyOnFailure : Prop :=
  ∀ (s : State) (t d : Word) (tf df : FieldDesc), s.config.originTag ≠ 0 →
    ∃ p : Response, exec (.encode t d tf df) s = .next (answered s p) ∧
      (p.status.getLsbD 0 = true → p.r0 &&& s.config.originTag = s.config.originTag ∧ p.r0 ≠ 0) ∧
      (p.status.getLsbD 0 = false → p.r0 = 0) ∧
      (¬ InRange t tf ∨ ¬ InRange d df → p.status.getLsbD 0 = false ∧ p.r0 = 0)

/-- Composition (the spec's inference of 42_word_codec.md section 4): a successful ENCODE answers the word of
two PACKs, the second on the first's answer, with the tag OR'd in. -/
def Obligations.EncodeIsTwoPacksAndTheTag : Prop :=
  ∀ (s : State) (t d : Word) (tf df : FieldDesc), WFDesc tf → WFDesc df → InRange t tf → InRange d df →
    ∃ w1 w2 : Word,
      exec (.pack 0 t tf) s = .next (answered s ⟨1, w1, 0, none⟩) ∧
      exec (.pack w1 d df) s = .next (answered s ⟨1, w2, 0, none⟩) ∧
      exec (.encode t d tf df) s = .next (answered s ⟨1, w2 ||| s.config.originTag, 0, none⟩) ∧
      w2 ||| s.config.originTag =
        s.config.originTag ||| (t <<< tf.off.toNat) ||| (d <<< df.off.toNat)

/-- R82, R83, R84, R91: DECODE, its operands and its answers: the two extractions; a zero type is reported
with OK and the event, and the message still returned; a zero data is not reported. Nothing but the ports
and the run changes. -/
def Obligations.DecodeExtractsBothFields : Prop :=
  (∀ r : Request, r.cmd = 0x00000005 → decode r = .ok (.decode r.a r.tf r.df)) ∧
  (∀ (w : Word) (fd : FieldDesc), extract w fd = (w >>> fd.off.toNat) &&& fd.mask) ∧
  (∀ (s : State) (a : Word) (tf df : FieldDesc), ¬ WFDesc tf ∨ ¬ WFDesc df →
    exec (.decode a tf df) s = .next (answered s ⟨0x00000010, 0, 0, none⟩)) ∧
  (∀ (s : State) (a : Word) (tf df : FieldDesc), WFDesc tf → WFDesc df →
    (a >>> tf.off.toNat) &&& tf.mask = 0 →
    exec (.decode a tf df) s = .next (answered s
      ⟨0x00000009, 0, (a >>> df.off.toNat) &&& df.mask, some .zeroType⟩)) ∧
  (∀ (s : State) (a : Word) (tf df : FieldDesc), WFDesc tf → WFDesc df →
    (a >>> tf.off.toNat) &&& tf.mask ≠ 0 →
    exec (.decode a tf df) s = .next (answered s ⟨0x00000001, (a >>> tf.off.toNat) &&& tf.mask,
      (a >>> df.off.toNat) &&& df.mask, none⟩)) ∧
  (∀ (s : State) (a off : Word) (df : FieldDesc), off.toNat ≤ 31 → WFDesc df →
    exec (.decode a ⟨off, 0⟩ df) s = .next (answered s
      ⟨0x00000009, 0, (a >>> df.off.toNat) &&& df.mask, some .zeroType⟩)) ∧
  (∀ (s : State) (tf df : FieldDesc), WFDesc tf → WFDesc df →
    exec (.decode 0 tf df) s = .next (answered s ⟨0x00000009, 0, 0, some .zeroType⟩)) ∧
  (∀ s : State, s.config.originTag &&& 0x00FFFFFF = 0 →
    exec (.decode (s.config.originTag ||| 0x0003E805) ⟨0, 0xFF⟩ ⟨8, 0xFFFF⟩) s =
      .next (answered s ⟨0x00000001, 5, 1000, none⟩))

/-- R85: DECODE validates nothing but the descriptors: the status depends on the extracted type alone, never on
the data; two words with the same two extractions get the same answer, whatever their origin tag and the
bits outside both fields; and tag bits that a field covers are not removed. -/
def Obligations.DecodeValidatesNothingElse : Prop :=
  (∀ (s : State) (w : Word) (tf df : FieldDesc), WFDesc tf → WFDesc df →
    ∃ p : Response, exec (.decode w tf df) s = .next (answered s p) ∧
      p.status = (if extract w tf = 0 then 0x00000009 else 0x00000001) ∧
      p.r1 = extract w df) ∧
  (∀ (s : State) (w w' : Word) (tf df : FieldDesc), extract w tf = extract w' tf →
    extract w df = extract w' df → exec (.decode w tf df) s = exec (.decode w' tf df) s) ∧
  (∀ (s : State) (w : Word) (tf df : FieldDesc), WFDesc tf → WFDesc df →
    ∃ p : Response, exec (.decode (w ||| s.config.originTag) tf df) s = .next (answered s p) ∧
      p.r0 = (extract w tf ||| extract s.config.originTag tf) ∧
      p.r1 = (extract w df ||| extract s.config.originTag df))

/-- The round trip (the spec's inference of 42_word_codec.md section 4): with both placed fields disjoint from
each other and from the tag, DECODE of what ENCODE answers, in any state, gives the message back, for every
in-range message, masks with holes included. -/
def Obligations.DecodeAfterEncodeGivesTheMessage : Prop :=
  ∀ (s s' : State) (t d : Word) (tf df : FieldDesc), WFDesc tf → WFDesc df →
    (tf.mask <<< tf.off.toNat) &&& (df.mask <<< df.off.toNat) = 0 →
    (tf.mask <<< tf.off.toNat) &&& s.config.originTag = 0 →
    (df.mask <<< df.off.toNat) &&& s.config.originTag = 0 →
    InRange t tf → InRange d df →
    ∃ (w : Word) (p : Response),
      exec (.encode t d tf df) s = .next (answered s ⟨1, w, 0, none⟩) ∧
      exec (.decode w tf df) s' = .next (answered s' p) ∧
      p.status.getLsbD 0 = true ∧ p.r0 = t ∧ p.r1 = d

/-- Where the tag overlaps a field (42_word_codec.md section 4, 90_conflicts.md C4): with the two fields
disjoint from each other only, DECODE returns each field with the tag's bits in it. -/
def Obligations.DecodeShowsTheTagInsideAField : Prop :=
  ∀ (s s' : State) (t d : Word) (tf df : FieldDesc), WFDesc tf → WFDesc df →
    (tf.mask <<< tf.off.toNat) &&& (df.mask <<< df.off.toNat) = 0 → InRange t tf → InRange d df →
    ∃ (w : Word) (p : Response),
      exec (.encode t d tf df) s = .next (answered s ⟨1, w, 0, none⟩) ∧
      exec (.decode w tf df) s' = .next (answered s' p) ∧
      p.r0 = (t ||| ((s.config.originTag >>> tf.off.toNat) &&& tf.mask)) ∧
      p.r1 = (d ||| ((s.config.originTag >>> df.off.toNat) &&& df.mask))

/-! ### Conditions -/

/-- R46, R93: an illegal command word is answered with ILLEGAL, zero results and no event, whatever the
request's other fields. -/
def Obligations.IllegalCommandWordIsReported : Prop :=
  ∀ (s : State) (r : Request), Ready s r → ¬ LegalCmd r.cmd →
    step s = .next (answered s ⟨0x00000020, 0, 0, none⟩)

/-- R96: of several conditions only the first is reported: ILLEGAL, then FMT_ERR, then the type's (or PACK's
field's) range, then the data's; a zero type is reported only with both descriptors well formed, and the
operation still succeeds. -/
def Obligations.OnlyTheFirstConditionIsReported : Prop :=
  ∀ (s : State) (r : Request), Ready s r →
    (¬ LegalCmd r.cmd → step s = .next (answered s ⟨0x00000020, 0, 0, none⟩)) ∧
    (r.cmd = 3 → ¬ WFDesc r.tf → step s = .next (answered s ⟨0x00000010, 0, 0, none⟩)) ∧
    (r.cmd = 4 ∨ r.cmd = 5 → ¬ WFDesc r.tf ∨ ¬ WFDesc r.df →
      step s = .next (answered s ⟨0x00000010, 0, 0, none⟩)) ∧
    (r.cmd = 3 → WFDesc r.tf → ¬ InRange r.b r.tf →
      step s = .next (answered s ⟨0x00000002, r.a, 0, some (.rangeViolation r.b r.tf.mask)⟩)) ∧
    (r.cmd = 4 → WFDesc r.tf → WFDesc r.df → ¬ InRange r.a r.tf →
      step s = .next (answered s ⟨0x00000002, 0, 0, some (.rangeViolation r.a r.tf.mask)⟩)) ∧
    (r.cmd = 4 → WFDesc r.tf → WFDesc r.df → InRange r.a r.tf → ¬ InRange r.b r.df →
      step s = .next (answered s ⟨0x00000006, 0, 0, some (.rangeViolation r.b r.df.mask)⟩)) ∧
    (r.cmd = 5 → WFDesc r.tf → WFDesc r.df → extract r.a r.tf = 0 →
      step s = .next (answered s ⟨0x00000009, 0, extract r.a r.df, some .zeroType⟩))

/-- The status words (60_exceptions.md section 2, the spec's inference) and the undefined results (30_encoding.md
section 2): every answer has one of the six status words, each only from the operations that may give it;
OK is set exactly when no error bit is, and at most one error bit is set; `r1` is 0 but for DECODE; on
FMT_ERR and ILLEGAL both results are 0 and there is no event; and there is an event exactly when a range
check failed or the type was zero. -/
def Obligations.EveryAnswerHasOneOfSixStatusWords : Prop :=
  ∀ (s : State) (r : Request), Ready s r → (r.cmd = 1 → Fits s.config r.buf) →
    ∃ p : Response, step s = .next (answered s p) ∧
      (p.status = 0x00000001 ∨ p.status = 0x00000009 ∨ p.status = 0x00000002 ∨
        p.status = 0x00000006 ∨ p.status = 0x00000010 ∨ p.status = 0x00000020) ∧
      (p.status = 0x00000001 → LegalCmd r.cmd) ∧ (p.status = 0x00000009 → r.cmd = 5) ∧
      (p.status = 0x00000002 → r.cmd = 3 ∨ r.cmd = 4) ∧ (p.status = 0x00000006 → r.cmd = 4) ∧
      (p.status = 0x00000010 → r.cmd = 3 ∨ r.cmd = 4 ∨ r.cmd = 5) ∧
      (p.status = 0x00000020 ↔ ¬ LegalCmd r.cmd) ∧
      ((statusBits p.status).ok = true ↔ (statusBits p.status).rangeErr = false ∧
        (statusBits p.status).fmtErr = false ∧ (statusBits p.status).illegal = false) ∧
      ¬ ((statusBits p.status).rangeErr = true ∧ (statusBits p.status).fmtErr = true) ∧
      ¬ ((statusBits p.status).rangeErr = true ∧ (statusBits p.status).illegal = true) ∧
      ¬ ((statusBits p.status).fmtErr = true ∧ (statusBits p.status).illegal = true) ∧
      (r.cmd ≠ 5 → p.r1 = 0) ∧
      ((statusBits p.status).fmtErr = true ∨ (statusBits p.status).illegal = true →
        p.r0 = 0 ∧ p.r1 = 0) ∧
      (p.diag ≠ none ↔ (statusBits p.status).rangeErr = true ∨ (statusBits p.status).zeroType = true)

/-! ### The machine -/

/-- A step runs the decoded instruction: where a request stands in the port and decodes to `i`, and no reset
comes first, the step is exactly `exec i`. Nothing stands around it: there is no program counter (R16). -/
def Obligations.StepRunsTheDecodedInstruction : Prop :=
  ∀ (s : State) (r : Request) (i : Instr), Ready s r → decode r = .ok i → step s = exec i s

/-- A table row's word placed in the request port is what the very next step runs (the model's own device,
assumptions 11 and 12). -/
def Obligations.PlacedTableWordRunsNext : Prop :=
  ∀ (s : State) (nbits w : Nat) (i : Instr), s.config.originTag ≠ 0 →
    decodeTableWord nbits w = some i →
    step (s.withFetchWord nbits w) = exec i (s.withFetchWord nbits w)

/-- The frame of every instruction: whenever one answers a next state, only the ports and the run changed, by
one response; the configuration and what the environment does next are as they were. -/
def Obligations.InstructionsChangeOnlyThePortsAndTheRun : Prop :=
  ∀ (i : Instr) (s t : State), exec i s = .next t → ∃ p : Response, t = answered s p

/-- Every instruction completes, in every state: CKSUM whenever its buffer fits, the others always. -/
def Obligations.EveryInstructionCompletes : Prop :=
  ∀ (i : Instr) (s : State), (∀ buf, i = .cksum buf → Fits s.config buf) →
    ∃ p : Response, exec i s = .next (answered s p)

/-- The block is a total function from request to response (the spec's inference of 10_state.md section 6): the
step that answers a ready request gives it the answer of the rules, and no other. -/
def Obligations.StepGivesTheAnswerOfTheRules : Prop :=
  ∀ (s : State) (r : Request), Ready s r → (r.cmd = 1 → Fits s.config r.buf) →
    ∃ p : Response, step s = .next (answered s p) ∧ Answers s.config r p ∧
      ∀ q : Response, Answers s.config r q → q = p

/-- R47: the fields an operation ignores do not affect its response: two requests that agree on what their
operation reads, in any two states of the same configuration, get the same response (or, CKSUM with too
long a buffer, the same refusal). -/
def Obligations.IgnoredFieldsDoNotAffectTheResponse : Prop :=
  ∀ (s s' : State) (r r' : Request), Ready s r → Ready s' r' → s.config = s'.config → SameRead r r' →
    (∃ p : Response, step s = .next (answered s p) ∧ step s' = .next (answered s' p)) ∨
    (step s = .refused .bufferTooLong ∧ step s' = .refused .bufferTooLong)

/-- The two parts are independent (00_scope.md section 1, 20_memory.md section 1): PACK and DECODE answer the same
under every configuration, ENCODE under every one with the same tag, and CKSTEP and CKSUM under every one
with the same table, CKSUM as long as its buffer fits. -/
def Obligations.CodecAndChecksumEngineAreIndependent : Prop :=
  (∀ (s s' : State) (w v : Word) (fd : FieldDesc), ∃ p : Response,
    exec (.pack w v fd) s = .next (answered s p) ∧ exec (.pack w v fd) s' = .next (answered s' p)) ∧
  (∀ (s s' : State) (w : Word) (tf df : FieldDesc), ∃ p : Response,
    exec (.decode w tf df) s = .next (answered s p) ∧
    exec (.decode w tf df) s' = .next (answered s' p)) ∧
  (∀ (s s' : State) (t d : Word) (tf df : FieldDesc), s.config.originTag = s'.config.originTag →
    ∃ p : Response, exec (.encode t d tf df) s = .next (answered s p) ∧
      exec (.encode t d tf df) s' = .next (answered s' p)) ∧
  (∀ (s s' : State) (a b : Word), s.config.ckTable = s'.config.ckTable →
    ∃ p : Response, exec (.ckstep a b) s = .next (answered s p) ∧
      exec (.ckstep a b) s' = .next (answered s' p)) ∧
  (∀ (s s' : State) (buf : List Byte), s.config.ckTable = s'.config.ckTable →
    Fits s.config buf → Fits s'.config buf →
    ∃ p : Response, exec (.cksum buf) s = .next (answered s p) ∧
      exec (.cksum buf) s' = .next (answered s' p))

/-- Reset discards a request in progress without a response or an entry in the run, leaves both ports empty, and
changes no constant; a request that no reset meets is answered in full; right after reset the ports are empty
(10_state.md section 6, 70_reset_and_hazards.md section 1). That reset comes as an act of the environment's
list and lands first when it stands at the list's head is the model's (assumption 6, DESIGN CHOICE), and so is
the record of the run, which reset keeps (assumption 9, DESIGN CHOICE). -/
def Obligations.ResetEmptiesThePortsAndKeepsTheConstants : Prop :=
  (∀ (s : State) (rest : List PortEvent), s.config.originTag ≠ 0 → s.env = .reset :: rest →
    step s = .next
      { config := s.config, reqPort := none, respPort := none, env := rest, history := s.history }) ∧
  (∀ (s : State) (r : Request), Ready s r → (r.cmd = 1 → Fits s.config r.buf) →
    ∃ p : Response, step s = .next (answered s p)) ∧
  State.reset.reqPort = none ∧ State.reset.respPort = none

/-- Resets do not show in results (the spec's inference of 70_reset_and_hazards.md section 1): after any number
of resets, whatever stood in the ports, the next request is answered by the rules as at any other time. The
environment's list and the count of steps are the model's (assumptions 6 and 7). -/
def Obligations.ResetsDoNotShowInResults : Prop :=
  ∀ (n : Nat) (s : State) (r : Request), s.config.originTag ≠ 0 → (r.cmd = 1 → Fits s.config r.buf) →
    s.env = List.replicate (n + 1) .reset ++ [.request r] →
    ∃ p : Response, Answers s.config r p ∧ steps (n + 3) s = .next
      { config := s.config, reqPort := none, respPort := some p, env := [],
        history := s.history ++ [(r, p)] }

/-- No step changes the configuration (10_state.md section 2). -/
def Obligations.NoStepChangesTheConfiguration : Prop :=
  ∀ s t : State, step s = .next t → t.config = s.config

/-- Every step leaves the run as it is or adds one entry, the request in the port with the response that now
stands in the response port, the port then idle (10_state.md sections 4 and 5; the run is the model's own
record, assumption 9). -/
def Obligations.RunGrowsByTheRequestAnswered : Prop :=
  ∀ s t : State, step s = .next t →
    (t.history = s.history ∧ (t.respPort = s.respPort ∨ t.respPort = none)) ∨
    (∃ (r : Request) (p : Response), s.reqPort = some r ∧ t = answered s p ∧
      t.history = s.history ++ [(r, p)])

/-- Requests are answered in the order they are presented, each once, each by the rules, two steps a request
(20_memory.md section 3; the environment's list, the run and the count of steps are the model's,
assumptions 6, 7 and 9). -/
def Obligations.RequestsAreAnsweredInOrder : Prop :=
  ∀ (s : State) (rs : List Request), s.config.originTag ≠ 0 → s.reqPort = none →
    s.env = rs.map .request → (∀ r ∈ rs, r.cmd = 1 → Fits s.config r.buf) →
    ∃ (ps : List Response) (t : State), ps.length = rs.length ∧
      (∀ e ∈ rs.zip ps, Answers s.config e.1 e.2) ∧
      steps (2 * rs.length) s = .next t ∧ t.config = s.config ∧ t.reqPort = none ∧ t.env = [] ∧
      t.history = s.history ++ rs.zip ps

/-- No hang (the spec's inference of 70_reset_and_hazards.md section 4): whatever the environment does, as long
as no CKSUM is too long, every act of it is taken and the port is idle again after at most two steps an act
and one more (the count of steps is the model's, assumption 7). -/
def Obligations.BlockNeverHangs : Prop :=
  ∀ s : State, s.config.originTag ≠ 0 →
    (∀ r, s.reqPort = some r → r.cmd = 1 → Fits s.config r.buf) →
    (∀ r, .request r ∈ s.env → r.cmd = 1 → Fits s.config r.buf) →
    ∃ t : State, steps (2 * s.env.length + 1) s = .next t ∧ t.env = [] ∧ t.reqPort = none ∧
      t.config = s.config

/-- A configuration with a zero origin tag is refused at every step, and no other one is refused for it. The spec
says only that a model refuses such a configuration (00_scope.md section 3); that EVERY step is refused, an
idle one and a reset included, and no other configuration is, is the model's reading (assumption 4, DEDUCED). -/
def Obligations.ZeroOriginTagIsRefused : Prop :=
  (∀ s : State, s.config.originTag = 0 → step s = .refused .originTagZero) ∧
  (∀ s : State, s.config.originTag ≠ 0 → step s ≠ .refused .originTagZero)

/-- With nothing to do the block waits, unchanged (the model's choice, assumption 8). -/
def Obligations.IdleBlockWaitsUnchanged : Prop :=
  ∀ s : State, s.config.originTag ≠ 0 → s.reqPort = none → s.env = [] → step s = .next s

/-- The invariant holds right after reset (of the model's default configuration, assumptions 1 to 3, and of
every build with a non-zero tag). -/
def Obligations.InvariantHoldsAtReset : Prop :=
  Inv State.reset ∧ ∀ c : Config, c.originTag ≠ 0 → Inv (State.ofConfig c)

/-- Every step keeps the invariant: the build stays well formed, the port holds no request that is too long,
every entry of the run has the answer of the rules, and the response port is empty or holds the answer of
the run's last entry (10_state.md section 6 and 20_memory.md section 3, with the spec's inferences there). The
record of the run, what the response port goes on holding, and where a CKSUM too long and a zero tag are
refused are the model's (assumptions 9, 10, 5 and 4). -/
def Obligations.StepKeepsTheInvariant : Prop :=
  ∀ s t : State, Inv s → step s = .next t → Inv t
end

