-- ==== Sys2Proof/Laws/Decode.lean ====
section
/-! SUPPORT. What the decoder answers: one lemma per legal command word, and one for all the others. -/

namespace Sys2Proof.Machine

theorem decode_cksum {r : Request} (h : r.cmd = 1) : decode r = .ok (.cksum r.buf) := by
  rw [decode, h, if_pos (by decide)]; rfl

theorem decode_ckstep {r : Request} (h : r.cmd = 2) : decode r = .ok (.ckstep r.a r.b) := by
  rw [decode, h, if_pos (by decide)]; rfl

theorem decode_pack {r : Request} (h : r.cmd = 3) : decode r = .ok (.pack r.a r.b r.tf) := by
  rw [decode, h, if_pos (by decide)]; rfl

theorem decode_encode {r : Request} (h : r.cmd = 4) :
    decode r = .ok (.encode r.a r.b r.tf r.df) := by
  rw [decode, h, if_pos (by decide)]; rfl

theorem decode_decode {r : Request} (h : r.cmd = 5) : decode r = .ok (.decode r.a r.tf r.df) := by
  rw [decode, h, if_pos (by decide)]; rfl

/-- A command word is its two fields (R43). -/
theorem cmd_toNat (cmd : Word) : cmd.toNat = 16 * (cmdRsv cmd).toNat + (cmdOp cmd).toNat := by
  have := cmd.isLt
  simp only [cmdRsv, cmdOp, BitVec.extractLsb'_toNat, Nat.shiftRight_eq_div_pow]
  omega

/-- Every command word that is not one of the five is rejected by name (R45). -/
theorem decode_illegal {r : Request} (h : ¬ LegalCmd r.cmd) : ∃ e, decode r = .error e := by
  unfold decode
  by_cases hrsv : cmdRsv r.cmd = 0
  · have hcmd := cmd_toNat r.cmd
    rw [hrsv] at hcmd
    have hne (k : Nat) (hk : k < 2 ^ 32) (heq : (cmdOp r.cmd).toNat = k) : r.cmd = BitVec.ofNat 32 k := by
      apply BitVec.eq_of_toNat_eq
      simp only [BitVec.toNat_ofNat, Nat.mod_eq_of_lt hk]
      simpa [heq] using hcmd
    rw [if_pos hrsv]
    split
    · next heq => exact absurd (.inl (hne 1 (by decide) heq)) h
    · next heq => exact absurd (.inr (.inl (hne 2 (by decide) heq))) h
    · next heq => exact absurd (.inr (.inr (.inl (hne 3 (by decide) heq)))) h
    · next heq => exact absurd (.inr (.inr (.inr (.inl (hne 4 (by decide) heq))))) h
    · next heq => exact absurd (.inr (.inr (.inr (.inr (hne 5 (by decide) heq))))) h
    · exact ⟨_, rfl⟩
  · exact ⟨_, if_neg hrsv⟩

end Sys2Proof.Machine
end

