-- ==== Sys2Proof/Laws/Operands.lean ====
section
/-! SUPPORT. What the operand functions compute: the bit length as a bound on the value, the checks of a
descriptor and of a value, and the zero extension with the low byte. -/

namespace Sys2Proof.Machine

/-- The bit length below bit `n` never exceeds `n`. -/
theorem bitlenBelow_le (m : Word) (n : Nat) : bitlenBelow m n ≤ n := by
  induction n with
  | zero => simp [bitlenBelow]
  | succ n ih =>
    unfold bitlenBelow
    split <;> omega

theorem bitlen_le (m : Word) : bitlen m ≤ 32 :=
  bitlenBelow_le m 32

/-- The bit length below `n` is at most `k` exactly when the bits from `k` up to `n` are all 0. -/
theorem bitlenBelow_le_iff (m : Word) (n k : Nat) :
    bitlenBelow m n ≤ k ↔ ∀ i, k ≤ i → i < n → m.getLsbD i = false := by
  induction n with
  | zero => simp [bitlenBelow]
  | succ n ih =>
    unfold bitlenBelow
    by_cases hn : m.getLsbD n = true
    · rw [if_pos hn]
      constructor
      · intro h i hk hi; omega
      · intro h
        by_contra hlt
        have := h n (by omega) (by omega)
        simp_all
    · rw [if_neg hn, ih]
      constructor
      · intro h i hk hi
        by_cases hin : i = n
        · subst hin; simpa using hn
        · exact h i hk (by omega)
      · intro h i hk hi
        exact h i hk (by omega)

/-- The bit length is at most `k` exactly when the value is below `2^k`. -/
theorem bitlen_le_iff (m : Word) (k : Nat) : bitlen m ≤ k ↔ m.toNat < 2 ^ k := by
  unfold bitlen
  rw [bitlenBelow_le_iff]
  constructor
  · intro h
    apply Nat.lt_pow_two_of_testBit
    intro i hi
    by_cases h32 : i < 32
    · simpa [BitVec.getLsbD] using h i hi h32
    · exact Nat.testBit_lt_two_pow (lt_of_lt_of_le m.isLt (Nat.pow_le_pow_right (by decide) (by omega)))
  · intro h i hk _
    have : m.toNat < 2 ^ i := lt_of_lt_of_le h (Nat.pow_le_pow_right (by decide) hk)
    simpa [BitVec.getLsbD] using Nat.testBit_lt_two_pow this

/-- The machine's check of a descriptor is the rule's (R67). -/
theorem fieldWF_iff (fd : FieldDesc) : fieldWF fd = true ↔ WFDesc fd := by
  simp [fieldWF, WFDesc]

/-- The machine's range check is the rule's (R68). -/
theorem inRange_iff (v : Word) (fd : FieldDesc) : inRange v fd = true ↔ InRange v fd := by
  simp [inRange, InRange]

theorem inRange_eq_false_iff (v : Word) (fd : FieldDesc) : inRange v fd = false ↔ ¬ InRange v fd := by
  rw [← inRange_iff]; simp

@[simp] theorem lowByte_zext32 (b : Byte) : lowByte (zext32 b) = b := by
  apply BitVec.eq_of_toNat_eq
  have := b.isLt
  simp only [lowByte, zext32, BitVec.extractLsb'_toNat, BitVec.toNat_setWidth]
  omega

end Sys2Proof.Machine
end

