-- ==== Sys2Proof/Laws/State.lean ====
section
/-! SUPPORT. One lemma per field per update of the state, and per field of the responses and of the reset
state, so that no later proof unfolds a record update. -/

namespace Sys2Proof.Machine

section Respond
variable (s : State) (p : Response)

@[simp] theorem respond_config : (s.respond p).config = s.config := rfl
@[simp] theorem respond_reqPort : (s.respond p).reqPort = none := rfl
@[simp] theorem respond_respPort : (s.respond p).respPort = some p := rfl
@[simp] theorem respond_env : (s.respond p).env = s.env := rfl
@[simp] theorem respond_history :
    (s.respond p).history = s.history ++ s.reqPort.toList.map (fun r => (r, p)) := rfl

/-- With a request in the port, exactly one entry is added to the run. -/
theorem respond_history_of_port {r : Request} (h : s.reqPort = some r) :
    (s.respond p).history = s.history ++ [(r, p)] := by simp [h]

end Respond

section Reset
variable (s : State) (c : Config)

@[simp] theorem assertReset_config : s.assertReset.config = s.config := rfl
@[simp] theorem assertReset_reqPort : s.assertReset.reqPort = none := rfl
@[simp] theorem assertReset_respPort : s.assertReset.respPort = none := rfl
@[simp] theorem assertReset_env : s.assertReset.env = s.env := rfl
@[simp] theorem assertReset_history : s.assertReset.history = s.history := rfl

@[simp] theorem ofConfig_config : (State.ofConfig c).config = c := rfl
@[simp] theorem ofConfig_reqPort : (State.ofConfig c).reqPort = none := rfl
@[simp] theorem ofConfig_respPort : (State.ofConfig c).respPort = none := rfl
@[simp] theorem ofConfig_env : (State.ofConfig c).env = [] := rfl
@[simp] theorem ofConfig_history : (State.ofConfig c).history = [] := rfl

@[simp] theorem reset_config : State.reset.config = defaultConfig := rfl
@[simp] theorem reset_reqPort : State.reset.reqPort = none := rfl
@[simp] theorem reset_respPort : State.reset.respPort = none := rfl
@[simp] theorem reset_env : State.reset.env = [] := rfl
@[simp] theorem reset_history : State.reset.history = [] := rfl

end Reset

section FetchWord
variable (s : State) (nbits w : Nat)

@[simp] theorem withFetchWord_config : (s.withFetchWord nbits w).config = s.config := rfl
@[simp] theorem withFetchWord_reqPort :
    (s.withFetchWord nbits w).reqPort = some (Request.ofTableWord nbits w) := rfl
@[simp] theorem withFetchWord_respPort : (s.withFetchWord nbits w).respPort = s.respPort := rfl
@[simp] theorem withFetchWord_env : (s.withFetchWord nbits w).env = shieldReset s.env := rfl
@[simp] theorem withFetchWord_history : (s.withFetchWord nbits w).history = s.history := rfl

end FetchWord

section Responses
variable (r0 r1 st : Word) (d : Diag)

@[simp] theorem okResponse_status : (okResponse r0 r1).status = statusOk := rfl
@[simp] theorem okResponse_r0 : (okResponse r0 r1).r0 = r0 := rfl
@[simp] theorem okResponse_r1 : (okResponse r0 r1).r1 = r1 := rfl
@[simp] theorem okResponse_diag : (okResponse r0 r1).diag = none := rfl
@[simp] theorem rangeResponse_status : (rangeResponse st r0 d).status = st := rfl
@[simp] theorem rangeResponse_r0 : (rangeResponse st r0 d).r0 = r0 := rfl
@[simp] theorem rangeResponse_r1 : (rangeResponse st r0 d).r1 = 0 := rfl
@[simp] theorem rangeResponse_diag : (rangeResponse st r0 d).diag = some d := rfl

end Responses

section Status

@[simp] theorem statusOk_eq : statusOk = 0x00000001 := by decide
@[simp] theorem statusZeroType_eq : statusZeroType = 0x00000009 := by decide
@[simp] theorem statusRange_eq : statusRange = 0x00000002 := by decide
@[simp] theorem statusRangeData_eq : statusRangeData = 0x00000006 := by decide
@[simp] theorem statusFmt_eq : statusFmt = 0x00000010 := by decide
@[simp] theorem statusIllegal_eq : statusIllegal = 0x00000020 := by decide

theorem fmtErrResponse_eq : fmtErrResponse = ⟨0x00000010, 0, 0, none⟩ := by simp [fmtErrResponse]
theorem illegalResponse_eq : illegalResponse = ⟨0x00000020, 0, 0, none⟩ := by simp [illegalResponse]

end Status

end Sys2Proof.Machine
end

