-- ==== Sys2Proof/Laws/Ops.lean ====
section
/-! SUPPORT. For each shared operation, once, all it can do; and for each meaning the next state it
answers. The provers cite these instead of unfolding. -/

namespace Sys2Proof.Machine

/-- The checksum loop is the rule's (R61). -/
theorem checksumFrom_eq_loopFrom (c : Config) (acc : Byte) (buf : List Byte) :
    checksumFrom c acc buf = loopFrom c acc buf := by
  induction buf generalizing acc with
  | nil => rfl
  | cons x rest ih => exact ih _

/-- The packing helper either merges an in-range value or reports the violation (R68 to R70). -/
theorem packField_cases (w v : Word) (fd : FieldDesc) :
    (InRange v fd ∧ packField w v fd = .ok (w ||| (v <<< fd.off.toNat))) ∨
      (¬ InRange v fd ∧ packField w v fd = .error (.rangeViolation v fd.mask)) := by
  unfold packField
  by_cases h : InRange v fd
  · exact .inl ⟨h, by rw [if_pos ((inRange_iff v fd).2 h)]; rfl⟩
  · exact .inr ⟨h, by rw [(inRange_eq_false_iff v fd).2 h]; rfl⟩

theorem packField_ok {w v : Word} {fd : FieldDesc} (h : InRange v fd) :
    packField w v fd = .ok (w ||| (v <<< fd.off.toNat)) := by
  rcases packField_cases w v fd with ⟨_, h'⟩ | ⟨hn, _⟩
  · exact h'
  · exact absurd h hn

theorem packField_error {w v : Word} {fd : FieldDesc} (h : ¬ InRange v fd) :
    packField w v fd = .error (.rangeViolation v fd.mask) := by
  rcases packField_cases w v fd with ⟨hp, _⟩ | ⟨_, h'⟩
  · exact absurd hp h
  · exact h'

/-- With every descriptor well formed the operation's own response goes out (R67). -/
theorem respondChecked_of_wf {s : State} {fds : List FieldDesc} {p : Response}
    (h : ∀ fd ∈ fds, WFDesc fd) : s.respondChecked fds p = s.respond p := by
  have : fds.all fieldWF = true := List.all_eq_true.2 fun fd hfd => (fieldWF_iff fd).2 (h fd hfd)
  simp [State.respondChecked, this]

/-- With a descriptor ill formed FMT_ERR goes out (R67). -/
theorem respondChecked_of_not_wf {s : State} {fds : List FieldDesc} {p : Response}
    (h : ¬ ∀ fd ∈ fds, WFDesc fd) : s.respondChecked fds p = s.respond fmtErrResponse := by
  have : ¬ fds.all fieldWF = true := fun hall =>
    h fun fd hfd => (fieldWF_iff fd).1 (List.all_eq_true.1 hall fd hfd)
  simp only [State.respondChecked, if_neg this]

/-- Whatever the descriptors, exactly one response goes out. -/
theorem respondChecked_is_respond (s : State) (fds : List FieldDesc) (p : Response) :
    ∃ q, s.respondChecked fds p = s.respond q := by
  unfold State.respondChecked
  split
  · exact ⟨_, rfl⟩
  · exact ⟨_, rfl⟩

/-- Acceptance either fills the port or refuses (R60). -/
theorem accept_next {r : Request} {s t : State} (h : accept r s = .next t) :
    acceptable s.config r = true ∧ t = { s with reqPort := some r } := by
  unfold accept at h
  split at h
  · next ha => exact ⟨ha, by cases h; rfl⟩
  · cases h

/-- CKSUM refuses a buffer that is too long and answers every other (R60, R61). -/
theorem execCksum_next {buf : List Byte} {s t : State} (h : execCksum buf s = .next t) :
    s.config.fitsMaxLen buf = true ∧
      t = s.respond (okResponse (zext32 (checksum s.config buf)) 0) := by
  unfold execCksum at h
  split at h
  · next hf => exact ⟨hf, by cases h; rfl⟩
  · cases h

/-- ENCODE's answer on well-formed descriptors, by case (R78, R79). -/
theorem encodeResponse_cases (c : Config) (t d : Word) (tf df : FieldDesc) :
    (¬ InRange t tf ∧
        encodeResponse c t d tf df = rangeResponse statusRange 0 (.rangeViolation t tf.mask)) ∨
      (InRange t tf ∧ ¬ InRange d df ∧
        encodeResponse c t d tf df = rangeResponse statusRangeData 0 (.rangeViolation d df.mask)) ∨
      (InRange t tf ∧ InRange d df ∧
        encodeResponse c t d tf df =
          okResponse ((t <<< tf.off.toNat) ||| (d <<< df.off.toNat) ||| c.originTag) 0) := by
  unfold encodeResponse
  by_cases ht : InRange t tf
  · by_cases hd : InRange d df
    · refine .inr (.inr ⟨ht, hd, ?_⟩)
      simp [packField_ok ht, packField_ok hd]
    · refine .inr (.inl ⟨ht, hd, ?_⟩)
      simp [packField_ok ht, packField_error hd]
  · refine .inl ⟨ht, ?_⟩
    simp [packField_error ht]

end Sys2Proof.Machine
end

