-- ==== Sys2Proof/Laws/PerInstr.lean ====
section
/-! SUPPORT. What is said of every instruction as syntax, one lemma per constructor. -/

namespace Sys2Proof.Laws

/-- The `OP` the opcode map gives each operation (R44). -/
def opcode : Instr → BitVec 4
  | .cksum _ => 1
  | .ckstep _ _ => 2
  | .pack _ _ _ => 3
  | .encode _ _ _ _ => 4
  | .decode _ _ _ => 5

/-- The encoder writes the opcode map's `OP` and a zero `RSV`. -/
def EncodesOpcode.Statement (i : Instr) : Prop :=
  cmdOp (encode i).cmd = opcode i ∧ cmdRsv (encode i).cmd = 0

theorem EncodesOpcode.cksum (buf : List Byte) : EncodesOpcode.Statement (.cksum buf) := ⟨rfl, show cmdRsv 0x00000001 = 0 by decide⟩
theorem EncodesOpcode.ckstep (a b : Word) : EncodesOpcode.Statement (.ckstep a b) := ⟨rfl, show cmdRsv 0x00000002 = 0 by decide⟩
theorem EncodesOpcode.pack (w v : Word) (fd : FieldDesc) : EncodesOpcode.Statement (.pack w v fd) :=
  ⟨rfl, show cmdRsv 0x00000003 = 0 by decide⟩
theorem EncodesOpcode.encode (t d : Word) (tf df : FieldDesc) :
    EncodesOpcode.Statement (.encode t d tf df) := ⟨rfl, show cmdRsv 0x00000004 = 0 by decide⟩
theorem EncodesOpcode.decode (w : Word) (tf df : FieldDesc) :
    EncodesOpcode.Statement (.decode w tf df) := ⟨rfl, show cmdRsv 0x00000005 = 0 by decide⟩

end Sys2Proof.Laws
end

