-- ==== Sys2Proof/Laws/Step.lean ====
section
/-! SUPPORT. What one step can do, said once: which act comes next, and every next state a step answers. -/

namespace Sys2Proof.Machine

theorem wellFormed_iff (c : Config) : c.wellFormed = true ↔ c.originTag ≠ 0 := by
  simp [Config.wellFormed]

/-- A ready request is answered by the next step (R37). -/
theorem nextAction_of_ready {s : State} {r : Request} (h : Ready s r) : s.nextAction = .answer r := by
  have hp := h.port
  have hn := h.noReset
  unfold State.nextAction
  split <;> simp_all

theorem step_of_ready {s : State} {r : Request} (h : Ready s r) : step s = serve r s := by
  simp [step, (wellFormed_iff _).2 h.config, nextAction_of_ready h]

theorem step_of_zero_tag {s : State} (h : s.config.originTag = 0) : step s = .refused .originTagZero := by
  simp [step, Config.wellFormed, h]

/-- The next act, by what stands at the ports (R36, R105). -/
theorem nextAction_cases (s : State) :
    (∃ rest, s.env = .reset :: rest ∧ s.nextAction = .reset rest) ∨
      ((∀ rest, s.env ≠ .reset :: rest) ∧ ∃ r, s.reqPort = some r ∧ s.nextAction = .answer r) ∨
      (∃ r rest, s.env = .request r :: rest ∧ s.reqPort = none ∧ s.nextAction = .accept r rest) ∨
      (∃ rest, s.env = .quiet :: rest ∧ s.reqPort = none ∧ s.nextAction = .quiet rest) ∨
      (s.env = [] ∧ s.reqPort = none ∧ s.nextAction = .idle) := by
  unfold State.nextAction
  split <;> simp_all

/-- Every next state of a step is one of five: after a reset, after an answer, after an acceptance, after a
quiet time, or the same. -/
theorem step_cases {s t : State} (h : step s = .next t) :
    s.config.originTag ≠ 0 ∧
      ((∃ rest, s.env = .reset :: rest ∧ t = ({ s with env := rest } : State).assertReset) ∨
        (∃ r, Ready s r ∧ serve r s = .next t) ∨
        (∃ r rest, s.env = .request r :: rest ∧ s.reqPort = none ∧ acceptable s.config r = true ∧
          t = { s with env := rest, reqPort := some r }) ∨
        (∃ rest, s.env = .quiet :: rest ∧ s.reqPort = none ∧ t = { s with env := rest }) ∨
        (s.env = [] ∧ s.reqPort = none ∧ t = s)) := by
  unfold step at h
  split at h
  · next hc =>
    have hc' := (wellFormed_iff _).1 hc
    refine ⟨hc', ?_⟩
    rcases nextAction_cases s with ⟨rest, he, ha⟩ | ⟨hn, r, hr, ha⟩ | ⟨r, rest, he, hr, ha⟩ |
        ⟨rest, he, hr, ha⟩ | ⟨he, hr, ha⟩ <;> rw [ha] at h
    · exact .inl ⟨rest, he, by cases h; rfl⟩
    · exact .inr (.inl ⟨r, ⟨hc', hr, hn⟩, h⟩)
    · obtain ⟨hacc, ht⟩ := accept_next h
      exact .inr (.inr (.inl ⟨r, rest, he, hr, hacc, ht⟩))
    · exact .inr (.inr (.inr (.inl ⟨rest, he, hr, by cases h; rfl⟩)))
    · exact .inr (.inr (.inr (.inr ⟨he, hr, by cases h; rfl⟩)))
  · cases h

/-- Answering a request is executing its instruction or reporting its command word (R46, R96). -/
theorem serve_of_ok {r : Request} {s : State} {i : Instr} (h : decode r = .ok i) :
    serve r s = exec i s := by simp [serve, h]

theorem serve_of_error {r : Request} {s : State} {e : CmdError} (h : decode r = .error e) :
    serve r s = .next (s.respond illegalResponse) := by simp [serve, h, reportIllegal]

end Sys2Proof.Machine
end

