-- ==== Sys2Proof/Tests/Slice0.lean ====
section
/-! SUPPORT. The model's own tests: decoding from words written out from the command word's layout, the checks
of WellFormed, the spec's test vectors (95_test_vectors.md, at most two an instruction), and a witness for
the hypotheses of each statement. -/

namespace Sys2Proof.Tests

open Sys2Proof.Machine

/-! ### Decoding (R43, R44): RSV is bits 31:4, OP bits 3:0 -/

/-- A request whose every operand differs, to show which ones an operation reads (R47). -/
def fullRequest (cmd : Word) : Request :=
  { cmd := cmd, a := 0x11, b := 0x22, tf := ⟨3, 0x33⟩, df := ⟨4, 0x44⟩, buf := [0x55, 0x66] }

theorem test_decode_cksum : decode (fullRequest 0b00000000000000000000000000000001) =
    .ok (.cksum [0x55, 0x66]) := by decide
theorem test_decode_ckstep : decode (fullRequest 0b00000000000000000000000000000010) =
    .ok (.ckstep 0x11 0x22) := by decide
theorem test_decode_pack : decode (fullRequest 0b00000000000000000000000000000011) =
    .ok (.pack 0x11 0x22 ⟨3, 0x33⟩) := by decide
theorem test_decode_encode : decode (fullRequest 0b00000000000000000000000000000100) =
    .ok (.encode 0x11 0x22 ⟨3, 0x33⟩ ⟨4, 0x44⟩) := by decide
theorem test_decode_decode : decode (fullRequest 0b00000000000000000000000000000101) =
    .ok (.decode 0x11 ⟨3, 0x33⟩ ⟨4, 0x44⟩) := by decide
/-- X6: RSV bit 4 set with OP 1. -/
theorem test_decode_reserved : decode (fullRequest 0b00000000000000000000000000010001) =
    .error (.reservedBits 1) := by decide
/-- X4: OP 0xF. -/
theorem test_decode_unassigned : decode (fullRequest 0b00000000000000000000000000001111) =
    .error (.unassignedOp 0xF) := by decide

/-! ### WellFormed -/

/-- The configuration of the spec's vectors, with a given tag and bound. -/
def build (tag : Word) (maxLen : Option Nat) : Config :=
  { ckTable := defaultTable, originTag := tag, ckMaxLen := maxLen }

theorem test_wellFormed_refuses_zero_tag : (build 0 none).wellFormed = false := by decide
theorem test_wellFormed_accepts_tag : (build 0x80000000 none).wellFormed = true := by decide
theorem test_wellFormed_refuses_long_buffer :
    (Instr.cksum [1, 2, 3, 4, 5]).wellFormed (build 0x80000000 (some 4)) = false := by decide
theorem test_wellFormed_accepts_longest_buffer :
    (Instr.cksum [1, 2, 3, 4]).wellFormed (build 0x80000000 (some 4)) = true := by decide

/-! ### The spec's vectors -/

/-- A state in which the request stands in the port. -/
def asked (c : Config) (r : Request) : State :=
  { State.ofConfig c with reqPort := some r }

/-- What one step answers a request. -/
def responseTo (c : Config) (r : Request) : Option Response :=
  match step (asked c r) with
  | .next t => t.respPort
  | .fault _ => none
  | .refused _ => none

/-- The configuration of the vectors. -/
def vec : Config := build 0x80000000 none

/-- The source's concrete format (R75). -/
def fType : FieldDesc := ⟨0, 0xFF⟩
def fData : FieldDesc := ⟨8, 0xFFFF⟩

/-- K8 -/
theorem test_cksum_deadbeef : responseTo vec (encode (.cksum [0xDE, 0xAD, 0xBE, 0xEF])) =
    some ⟨1, 0xD2, 0, none⟩ := by decide
/-- K13 -/
theorem test_cksum_12345678 : responseTo vec (encode (.cksum [0x12, 0x34, 0x56, 0x78])) =
    some ⟨1, 0xDA, 0, none⟩ := by decide
/-- S6 -/
theorem test_ckstep_low_bytes : responseTo vec (encode (.ckstep 0x12345678 0xFFFFFF00)) =
    some ⟨1, 0x55, 0, none⟩ := by decide
/-- Program 1, first line -/
theorem test_ckstep_first_byte : responseTo vec (encode (.ckstep 0xFF 0xDE)) =
    some ⟨1, 0x74, 0, none⟩ := by decide
/-- P3 -/
theorem test_pack_failure_keeps_word : responseTo vec (encode (.pack 0x12340000 300 fType)) =
    some ⟨2, 0x12340000, 0, some (.rangeViolation 0x12C 0xFF)⟩ := by decide
/-- P4 -/
theorem test_pack_merges : responseTo vec (encode (.pack 5 1000 fData)) =
    some ⟨1, 0x0003E805, 0, none⟩ := by decide
/-- E1 -/
theorem test_encode_scenario : responseTo vec (encode (.encode 5 1000 fType fData)) =
    some ⟨1, 0x8003E805, 0, none⟩ := by decide
/-- E4 -/
theorem test_encode_data_range : responseTo vec (encode (.encode 5 0x10000 fType fData)) =
    some ⟨6, 0, 0, some (.rangeViolation 0x10000 0xFFFF)⟩ := by decide
/-- D9 -/
theorem test_decode_top_nibble :
    responseTo vec (encode (.decode 0x12345678 ⟨28, 0xF⟩ ⟨0, 0xFFFFFFF⟩)) =
      some ⟨1, 1, 0x02345678, none⟩ := by decide
/-- D5 -/
theorem test_decode_zero_type : responseTo vec (encode (.decode 0x0003E800 fType fData)) =
    some ⟨9, 0, 0x3E8, some .zeroType⟩ := by decide
/-- P8 -/
theorem test_ill_formed_descriptor : responseTo vec (encode (.pack 0 1 ⟨31, 0x3⟩)) =
    some ⟨0x10, 0, 0, none⟩ := by decide
/-- X6, with the operands of section 2.6 -/
theorem test_illegal_command :
    responseTo vec { cmd := 0x11, a := 5, b := 5, tf := fType, df := fData, buf := [1] } =
      some ⟨0x20, 0, 0, none⟩ := by decide
/-- W1, placed as a table word: the first step after reset runs it. -/
theorem test_table_word_runs_first :
    (match step (State.reset.withFetchWord 32 0x00000001) with
      | .next t => t.respPort
      | .fault _ => none
      | .refused _ => none) = some ⟨1, 0xFF, 0, none⟩ := by decide

/-! ### Witnesses: the hypotheses of each statement can be met -/

theorem fits_unbounded (tag : Word) (buf : List Byte) : Fits (build tag none) buf := by
  intro m h; cases h

theorem asked_ready (r : Request) : Ready (asked vec r) r :=
  ⟨show vec.originTag ≠ 0 by decide, rfl, by intro rest h; cases h⟩

theorem test_witness_LegalCommandWordsSelectTheOperations :
    (fullRequest 1).cmd = 1 ∧ (fullRequest 2).cmd = 2 ∧ (fullRequest 3).cmd = 3 ∧
      (fullRequest 4).cmd = 4 ∧ (fullRequest 5).cmd = 5 ∧ ¬ LegalCmd 0 ∧ ¬ LegalCmd 6 := by decide

theorem test_witness_DecodeAndEncodeAgree :
    decode (fullRequest 5) = .ok (.decode 0x11 ⟨3, 0x33⟩ ⟨4, 0x44⟩) := test_decode_decode

theorem test_witness_PseudoInstructionsDoWhatTheyExpandTo :
    WFDesc fData ∧ InRange 0xFFFF fData ∧ ¬ InRange 0x10000 fData := by decide

/-- The longest buffer a bound of 1 lets in, the shortest it keeps out, and the shortest of all. -/
theorem test_witness_CksumAnswersTheChecksumOfTheBuffer :
    (fullRequest 1).cmd = 1 ∧ Fits (build 2 (some 1)) [0x31] ∧ Fits (build 2 (some 0)) [] ∧
      ¬ Fits (build 2 (some 0)) [0x31] := by
  refine ⟨rfl, ?_, ?_, ?_⟩
  · intro m h; cases h; decide
  · intro m h; cases h; decide
  · intro h; exact absurd (h 0 rfl) (by decide)

/-- A request presented to an idle block of the given build. -/
def presented (c : Config) (r : Request) : State :=
  { State.ofConfig c with env := [.request r] }

/-- At the bound 2 the requests of 2 and of 3 bytes, and one of an unbounded build. -/
theorem test_witness_CksumTooLongIsRefused :
    (presented (build 2 (some 1)) (fullRequest 1)).config.originTag ≠ 0 ∧
      (presented (build 2 (some 1)) (fullRequest 1)).reqPort = none ∧
      (presented (build 2 (some 1)) (fullRequest 1)).env = .request (fullRequest 1) :: [] ∧
      (fullRequest 1).cmd = 1 ∧
      (presented (build 2 (some 1)) (fullRequest 1)).config.ckMaxLen = some 1 ∧
      1 < (fullRequest 1).buf.length ∧
      (presented (build 2 (some 2)) (fullRequest 1)).config.ckMaxLen = some 2 ∧
      (fullRequest 1).buf.length ≤ 2 ∧
      (presented (build 2 none) (fullRequest 1)).config.ckMaxLen = none := by
  refine ⟨by decide, rfl, rfl, rfl, rfl, by decide, rfl, by decide, rfl⟩

theorem test_witness_CkstepAnswersOneUpdate :
    (fullRequest 2).cmd = 2 ∧ (0x1FF : Word).setWidth 8 = (0xFF : Word).setWidth 8 ∧
      (0xFFFFFF00 : Word).setWidth 8 = (0 : Word).setWidth 8 := by decide

theorem test_witness_StreamedCkstepsAgreeWithCksum :
    Fits (asked vec (fullRequest 1)).config [0xDE, 0xAD] := fits_unbounded _ _

theorem test_witness_ChecksumOfConcatenationAndOfAppendedChecksum :
    ∃ t w, exec (.cksum [0xDE]) (asked vec (fullRequest 1)) = .next t ∧ t.respPort = some w ∧
      Fits (asked vec (fullRequest 1)).config ([0xDE] ++ [w.r0.setWidth 8]) ∧
      Fits (asked vec (fullRequest 1)).config ([0xDE] ++ [0xAD]) :=
  ⟨_, _, rfl, rfl, fits_unbounded _ _, fits_unbounded _ _⟩

theorem test_witness_BitLengthCountsToTheHighestSetBit :
    (0x80000000 : Word).getLsbD 31 = true ∧ ∀ j, 31 < j → (0x80000000 : Word).getLsbD j = false :=
  ⟨by decide, fun j h => BitVec.getLsbD_of_ge _ _ (by omega)⟩

/-- The widths 0, 8 and 32. -/
theorem test_witness_RangeCheckPassesValuesWithinTheMask :
    (0 : Word).toNat = 2 ^ 0 - 1 ∧ (0xFF : Word).toNat = 2 ^ 8 - 1 ∧
      (0xFFFFFFFF : Word).toNat = 2 ^ 32 - 1 := by decide

/-- The two ways to be ill formed, each one past the last well-formed descriptor. -/
theorem test_witness_IllFormedDescriptorIsReported :
    WFDesc ⟨31, 0x1⟩ ∧ ¬ WFDesc ⟨31, 0x3⟩ ∧ WFDesc ⟨31, 0x0⟩ ∧ ¬ WFDesc ⟨32, 0x0⟩ := by decide

theorem test_witness_PackChecksThenMerges :
    (fullRequest 3).cmd = 3 ∧ ¬ WFDesc ⟨1, 0xFFFFFFFF⟩ ∧ WFDesc ⟨0, 0xFFFFFFFF⟩ ∧
      WFDesc ⟨31, 0x1⟩ ∧ (1 : Word) &&& (FieldDesc.mk 31 0x1).mask = 1 ∧
      (2 : Word) &&& (FieldDesc.mk 31 0x1).mask ≠ 2 := by decide

theorem test_witness_PlacingAnInRangeValueLosesNoBit : WFDesc ⟨31, 0x1⟩ ∧ InRange 1 ⟨31, 0x1⟩ := by
  decide

theorem test_witness_PackNeverClearsABit :
    WFDesc ⟨4, 0xF⟩ ∧ InRange 0xF ⟨4, 0xF⟩ ∧ ¬ InRange 0x10 ⟨4, 0xF⟩ := by decide

theorem test_witness_ExtractAfterPackGivesTheValue :
    WFDesc ⟨4, 0x5⟩ ∧ InRange 0x4 ⟨4, 0x5⟩ ∧
      ((0xFFFFFFAF : Word) >>> (FieldDesc.mk 4 0x5).off.toNat) &&& (FieldDesc.mk 4 0x5).mask = 0 := by
  decide

theorem test_witness_EncodeChecksThenComposes :
    (fullRequest 4).cmd = 4 ∧ ¬ WFDesc ⟨8, 0x1FFFFFF⟩ ∧ WFDesc fType ∧ WFDesc fData ∧
      (0x100 : Word) &&& fType.mask ≠ 0x100 ∧ (0xFF : Word) &&& fType.mask = 0xFF ∧
      (0x10000 : Word) &&& fData.mask ≠ 0x10000 ∧ (0xFFFF : Word) &&& fData.mask = 0xFFFF ∧
      (31 : Word).toNat ≤ 31 := by decide

/-- A message of zeros with both masks 0 at the last offset is encoded. -/
theorem test_witness_EncodeWithBothMasksZero :
    ∃ w, exec (.encode 0 0 ⟨31, 0⟩ ⟨31, 0⟩) (asked vec (fullRequest 4)) =
      .next (answered (asked vec (fullRequest 4)) ⟨1, w, 0, none⟩) := ⟨0x80000000, rfl⟩

theorem test_witness_EncodeStopsAtTheFirstFailure :
    WFDesc fType ∧ WFDesc fData ∧ ¬ InRange 0x100 fType ∧ InRange 0xFF fType ∧
      ¬ InRange 0x10000 fData ∧ InRange 0xFFFF fData := by decide

theorem test_witness_EncodeAnswersZeroExactlyOnFailure :
    (asked vec (fullRequest 4)).config.originTag ≠ 0 ∧
      (⟨1, 0x8003E805, 0, none⟩ : Response).status.getLsbD 0 = true ∧
      (⟨6, 0, 0, none⟩ : Response).status.getLsbD 0 = false ∧ ¬ InRange 0x100 fType := by decide

theorem test_witness_EncodeIsTwoPacksAndTheTag :
    WFDesc fType ∧ WFDesc fData ∧ InRange 0xFF fType ∧ InRange 0xFFFF fData := by decide

theorem test_witness_DecodeExtractsBothFields :
    (fullRequest 5).cmd = 5 ∧ WFDesc fType ∧ WFDesc fData ∧ ¬ WFDesc ⟨33, 0⟩ ∧
      ((0x0003E800 : Word) >>> fType.off.toNat) &&& fType.mask = 0 ∧
      ((0x8003E805 : Word) >>> fType.off.toNat) &&& fType.mask ≠ 0 ∧ (31 : Word).toNat ≤ 31 ∧
      vec.originTag &&& 0x00FFFFFF = 0 := by decide

theorem test_witness_DecodeValidatesNothingElse :
    WFDesc fType ∧ WFDesc fData ∧ extract 0x8003E805 fType = extract 0x0003E805 fType ∧
      extract 0x8003E805 fData = extract 0x0003E805 fData := by decide

/-- The layout of vector E13: the tag at bit 1, outside both fields. -/
theorem test_witness_DecodeAfterEncodeGivesTheMessage :
    WFDesc ⟨2, 0xF⟩ ∧ WFDesc ⟨6, 0x3FF⟩ ∧
      ((0xF : Word) <<< (2 : Word).toNat) &&& ((0x3FF : Word) <<< (6 : Word).toNat) = 0 ∧
      ((0xF : Word) <<< (2 : Word).toNat) &&& (build 2 none).originTag = 0 ∧
      ((0x3FF : Word) <<< (6 : Word).toNat) &&& (build 2 none).originTag = 0 ∧
      InRange 1 ⟨2, 0xF⟩ ∧ InRange 0x155 ⟨6, 0x3FF⟩ := by decide

/-- Vector E12: the tag inside the type field. -/
theorem test_witness_DecodeShowsTheTagInsideAField :
    WFDesc fType ∧ WFDesc fData ∧
      (fType.mask <<< fType.off.toNat) &&& (fData.mask <<< fData.off.toNat) = 0 ∧
      InRange 5 fType ∧ InRange 1000 fData ∧
      ((build 2 none).originTag >>> fType.off.toNat) &&& fType.mask ≠ 0 := by decide

theorem test_witness_IllegalCommandWordIsReported :
    Ready (asked vec (fullRequest 0x80000001)) (fullRequest 0x80000001) ∧
      ¬ LegalCmd (fullRequest 0x80000001).cmd := ⟨asked_ready _, by decide⟩

/-- For each clause, a request in which a later condition would apply too. -/
theorem test_witness_OnlyTheFirstConditionIsReported :
    (∀ r, Ready (asked vec r) r) ∧ ¬ LegalCmd (0x13 : Word) ∧
      (¬ WFDesc ⟨32, 0⟩ ∧ ¬ InRange 1 ⟨32, 0⟩) ∧ (¬ WFDesc ⟨8, 0x1FFFFFF⟩ ∧ WFDesc fType) ∧
      (¬ InRange 300 fType ∧ ¬ InRange 0x10000 fData) ∧ InRange 255 fType ∧
      extract 0xFFFFFF00 fType = 0 := ⟨asked_ready, by decide⟩

theorem test_witness_EveryAnswerHasOneOfSixStatusWords :
    Ready (asked vec (fullRequest 1)) (fullRequest 1) ∧
      ((fullRequest 1).cmd = 1 → Fits (asked vec (fullRequest 1)).config (fullRequest 1).buf) :=
  ⟨asked_ready _, fun _ => fits_unbounded _ _⟩

theorem test_witness_StepRunsTheDecodedInstruction :
    Ready (asked vec (fullRequest 2)) (fullRequest 2) ∧
      decode (fullRequest 2) = .ok (.ckstep 0x11 0x22) := ⟨asked_ready _, test_decode_ckstep⟩

theorem test_witness_PlacedTableWordRunsNext :
    State.reset.config.originTag ≠ 0 ∧
      decodeTableWord 32 0x00000005 = some (.decode 0 ⟨0, 0⟩ ⟨0, 0⟩) := by decide

theorem test_witness_InstructionsChangeOnlyThePortsAndTheRun :
    ∃ t, exec (.pack 0 1 ⟨31, 0x1⟩) State.reset = .next t := ⟨_, rfl⟩

theorem test_witness_EveryInstructionCompletes :
    ∀ buf, Instr.cksum [0xDE] = .cksum buf → Fits State.reset.config buf :=
  fun buf _ => fits_unbounded _ buf

theorem test_witness_StepGivesTheAnswerOfTheRules :
    Ready (asked vec (fullRequest 1)) (fullRequest 1) ∧
      ((fullRequest 1).cmd = 1 → Fits (asked vec (fullRequest 1)).config (fullRequest 1).buf) ∧
      ∃ q, Answers vec (fullRequest 6) q := by
  refine ⟨asked_ready _, fun _ => fits_unbounded _ _, ⟨0x20, 0, 0, none⟩, ?_⟩
  constructor <;> simp [fullRequest]

/-- Two CKSTEP requests that differ in every ignored bit and field. -/
theorem test_witness_IgnoredFieldsDoNotAffectTheResponse :
    SameRead (fullRequest 2) ⟨2, 0x111, 0x222, ⟨0, 0⟩, ⟨0, 0⟩, []⟩ ∧
      Ready (asked vec (fullRequest 2)) (fullRequest 2) ∧
      Ready (asked vec ⟨2, 0x111, 0x222, ⟨0, 0⟩, ⟨0, 0⟩, []⟩) ⟨2, 0x111, 0x222, ⟨0, 0⟩, ⟨0, 0⟩, []⟩ := by
  refine ⟨?_, asked_ready _, asked_ready _⟩
  constructor <;> decide

/-- Builds that differ in all but the tag, and in all but the table. -/
theorem test_witness_CodecAndChecksumEngineAreIndependent :
    (build 2 (some 1)).originTag = (Config.mk (Vector.replicate 256 0) 2 none).originTag ∧
      (build 2 (some 1)).ckTable = (build 0x80000000 (some 2)).ckTable ∧
      Fits (build 2 (some 1)) [0x31] ∧ Fits (build 0x80000000 (some 2)) [0x31] := by
  refine ⟨rfl, rfl, ?_, ?_⟩
  · intro m h; cases h; decide
  · intro m h; cases h; decide

/-- A reset that meets a request in progress. -/
theorem test_witness_ResetEmptiesThePortsAndKeepsTheConstants :
    ({ asked vec (fullRequest 4) with env := [.reset] } : State).config.originTag ≠ 0 ∧
      ({ asked vec (fullRequest 4) with env := [.reset] } : State).env = .reset :: [] ∧
      Ready (asked vec (fullRequest 4)) (fullRequest 4) := ⟨by decide, rfl, asked_ready _⟩

/-- One reset, on a request in progress, and then a request. -/
theorem test_witness_ResetsDoNotShowInResults :
    ∃ s : State, s.config.originTag ≠ 0 ∧ s.reqPort = some (fullRequest 2) ∧
      ((fullRequest 1).cmd = 1 → Fits s.config (fullRequest 1).buf) ∧
      s.env = List.replicate (0 + 1) .reset ++ [.request (fullRequest 1)] :=
  ⟨{ asked vec (fullRequest 2) with env := [.reset, .request (fullRequest 1)] }, by decide, rfl,
    fun _ => fits_unbounded _ _, rfl⟩

theorem test_witness_NoStepChangesTheConfiguration :
    ∃ t, step (asked vec (fullRequest 3)) = .next t := ⟨_, rfl⟩

theorem test_witness_RunGrowsByTheRequestAnswered :
    ∃ t, step (asked vec (fullRequest 5)) = .next t ∧ t.history.length = 1 := ⟨_, rfl, rfl⟩

theorem test_witness_RequestsAreAnsweredInOrder :
    ∃ s : State, s.config.originTag ≠ 0 ∧ s.reqPort = none ∧
      s.env = [fullRequest 1, fullRequest 9].map .request ∧
      ∀ r ∈ [fullRequest 1, fullRequest 9], r.cmd = 1 → Fits s.config r.buf :=
  ⟨{ State.ofConfig vec with env := [.request (fullRequest 1), .request (fullRequest 9)] }, by decide, rfl,
    rfl, fun _ _ _ => fits_unbounded _ _⟩

theorem test_witness_BlockNeverHangs :
    ∃ s : State, s.config.originTag ≠ 0 ∧ s.reqPort = some (fullRequest 1) ∧
      s.env = [.quiet, .request (fullRequest 1), .reset] ∧
      (∀ r, s.reqPort = some r → r.cmd = 1 → Fits s.config r.buf) ∧
      ∀ r, .request r ∈ s.env → r.cmd = 1 → Fits s.config r.buf :=
  ⟨{ asked vec (fullRequest 1) with env := [.quiet, .request (fullRequest 1), .reset] }, by decide, rfl, rfl,
    fun _ _ _ => fits_unbounded _ _, fun _ _ _ => fits_unbounded _ _⟩

theorem test_witness_ZeroOriginTagIsRefused :
    (State.ofConfig (build 0 none)).config.originTag = 0 ∧
      (State.ofConfig (build 1 none)).config.originTag ≠ 0 := by decide

theorem test_witness_IdleBlockWaitsUnchanged :
    State.reset.config.originTag ≠ 0 ∧ State.reset.reqPort = none ∧ State.reset.env = [] :=
  ⟨by decide, rfl, rfl⟩

theorem test_witness_InvariantHoldsAtReset : (build 1 (some 0)).originTag ≠ 0 := by decide

/-- A state with a request in the port meets the invariant and takes a step. -/
theorem test_witness_StepKeepsTheInvariant :
    ∃ t, Inv (asked vec (fullRequest 1)) ∧ step (asked vec (fullRequest 1)) = .next t :=
  ⟨_, ⟨by decide, fun _ _ _ => fits_unbounded _ _, fun _ h => (by cases h), .inl rfl⟩, rfl⟩

end Sys2Proof.Tests
end

section
/-! The encoding family (30_encoding.md): what a ready request is answered with, by the decoder's verdict on it,
and the statements about legal and illegal command words, ignored fields and assembly lines. -/

namespace Sys2Proof.Machine

/-! ### The response of an instruction, apart from the state it is sent from -/

/-- `p`, or FMT_ERR where one of the descriptors is ill formed (R67). -/
def checkedResponse (fds : List FieldDesc) (p : Response) : Response :=
  if fds.all fieldWF then p else fmtErrResponse

/-- What an instruction answers when it is not refused; of the state it depends on the configuration alone.
`exec_of_wellFormed` ties it to the meanings. -/
def instrResponse (c : Config) : Instr → Response
  | .cksum buf => okResponse (zext32 (checksum c buf)) 0
  | .ckstep a b => okResponse (zext32 (ckUpdate c (lowByte a) (lowByte b))) 0
  | .pack word value field => checkedResponse [field] (packResponse word value field)
  | .encode t d tf df => checkedResponse [tf, df] (encodeResponse c t d tf df)
  | .decode word tf df => checkedResponse [tf, df] (decodeResponse word tf df)

theorem respond_eq_answered (s : State) (p : Response) : s.respond p = answered s p := rfl

theorem respondChecked_eq_answered (s : State) (fds : List FieldDesc) (p : Response) :
    s.respondChecked fds p = answered s (checkedResponse fds p) := by
  unfold State.respondChecked checkedResponse
  split
  · exact respond_eq_answered s p
  · exact respond_eq_answered s fmtErrResponse

/-- An instruction the block accepts is answered with its response, and nothing else changes (R29). -/
theorem exec_of_wellFormed {i : Instr} {s : State} (h : i.wellFormed s.config = true) :
    exec i s = .next (answered s (instrResponse s.config i)) := by
  cases i with
  | cksum buf => exact if_pos h
  | ckstep a b => rfl
  | pack w v fd => exact congrArg _ (respondChecked_eq_answered s _ _)
  | encode t d tf df => exact congrArg _ (respondChecked_eq_answered s _ _)
  | decode w tf df => exact congrArg _ (respondChecked_eq_answered s _ _)

/-- Only a CKSUM can be refused, and only for its length (R60). -/
theorem exec_of_not_wellFormed {i : Instr} {s : State} (h : ¬ i.wellFormed s.config = true) :
    exec i s = .refused .bufferTooLong := by
  cases i with
  | cksum buf => exact if_neg h
  | ckstep a b => exact absurd rfl h
  | pack w v fd => exact absurd rfl h
  | encode t d tf df => exact absurd rfl h
  | decode w tf df => exact absurd rfl h

/-! ### The step at a ready request, by the decoder's verdict -/

theorem step_of_ready_ok {s : State} {r : Request} {i : Instr} (h : Ready s r) (hi : decode r = .ok i) :
    step s = exec i s := by
  rw [step_of_ready h, serve_of_ok hi]

theorem step_of_ready_illegal {s : State} {r : Request} (h : Ready s r) (hr : ¬ LegalCmd r.cmd) :
    step s = .next (answered s ⟨0x00000020, 0, 0, none⟩) := by
  obtain ⟨e, he⟩ := decode_illegal hr
  rw [step_of_ready h, serve_of_error he, respond_eq_answered, illegalResponse_eq]

/-! ### Legal command words -/

/-- The two conditions of R43 on the fields of the command word single out the words 1 to 5 (R44). -/
theorem rsv_op_iff_legalCmd (cmd : Word) :
    (cmd.toNat / 16 = 0 ∧ 1 ≤ cmd.toNat % 16 ∧ cmd.toNat % 16 ≤ 5) ↔ LegalCmd cmd := by
  simp only [LegalCmd, ← BitVec.toNat_inj, BitVec.toNat_ofNat, BitVec.ofNat_eq_ofNat]
  omega

theorem decode_ok_of_legalCmd {r : Request} (h : LegalCmd r.cmd) : ∃ i, decode r = .ok i := by
  rcases h with h | h | h | h | h
  · exact ⟨_, decode_cksum h⟩
  · exact ⟨_, decode_ckstep h⟩
  · exact ⟨_, decode_pack h⟩
  · exact ⟨_, decode_encode h⟩
  · exact ⟨_, decode_decode h⟩

theorem decode_ok_iff_legalCmd (r : Request) : (∃ i, decode r = .ok i) ↔ LegalCmd r.cmd := by
  refine ⟨fun ⟨i, hi⟩ => ?_, decode_ok_of_legalCmd⟩
  by_contra hr
  obtain ⟨e, he⟩ := decode_illegal hr
  cases hi.symm.trans he

/-- Settles O1: the decoder's verdict on each word, from the two fields of the word. -/
theorem legalCommandWordsSelectTheOperations : Obligations.LegalCommandWordsSelectTheOperations :=
  ⟨rsv_op_iff_legalCmd, decode_ok_iff_legalCmd,
    fun _ h => ⟨_, decode_cksum h⟩,
    fun _ h => ⟨_, _, decode_ckstep h⟩,
    fun _ h => ⟨_, _, _, decode_pack h⟩,
    fun _ h => ⟨_, _, _, _, decode_encode h⟩,
    fun _ h => ⟨_, _, _, decode_decode h⟩⟩

/-- Settles O28: the decoder rejects the word, and the step then reports it. -/
theorem illegalCommandWordIsReported : Obligations.IllegalCommandWordIsReported :=
  fun _ _ hready hr => step_of_ready_illegal hready hr

/-! ### Ignored fields -/

/-- Two instructions that every configuration accepts or refuses alike and answers alike. -/
def SameAnswer (i i' : Instr) : Prop :=
  ∀ c : Config, i.wellFormed c = i'.wellFormed c ∧ instrResponse c i = instrResponse c i'

theorem sameAnswer_refl (i : Instr) : SameAnswer i i := fun _ => ⟨rfl, rfl⟩

/-- CKSTEP reads the low byte of each operand and no more (R64). -/
theorem sameAnswer_ckstep {a a' b b' : Word} (ha : lowByte a = lowByte a') (hb : lowByte b = lowByte b') :
    SameAnswer (.ckstep a b) (.ckstep a' b') :=
  fun c => ⟨rfl, by simp only [instrResponse, ha, hb]⟩

/-- Legal requests that agree on what their operation reads decode to instructions with one answer (R47). -/
theorem decode_of_sameRead {r r' : Request} (h : SameRead r r') (hr : LegalCmd r.cmd) :
    ∃ i i', decode r = .ok i ∧ decode r' = .ok i' ∧ SameAnswer i i' := by
  rcases hr with hc | hc | hc | hc | hc
  · have hbuf := h.buf hc
    exact ⟨_, _, decode_cksum hc, decode_cksum (h.cmd ▸ hc), hbuf ▸ sameAnswer_refl _⟩
  · exact ⟨_, _, decode_ckstep hc, decode_ckstep (h.cmd ▸ hc),
      sameAnswer_ckstep (h.accumulator hc) (h.byte hc)⟩
  · obtain ⟨ha, htf⟩ := h.first (.inl hc)
    have hb := h.second (.inl hc)
    exact ⟨_, _, decode_pack hc, decode_pack (h.cmd ▸ hc), ha ▸ hb ▸ htf ▸ sameAnswer_refl _⟩
  · obtain ⟨ha, htf⟩ := h.first (.inr (.inl hc))
    have hb := h.second (.inr hc)
    have hdf := h.format (.inl hc)
    exact ⟨_, _, decode_encode hc, decode_encode (h.cmd ▸ hc),
      ha ▸ hb ▸ htf ▸ hdf ▸ sameAnswer_refl _⟩
  · obtain ⟨ha, htf⟩ := h.first (.inr (.inr hc))
    have hdf := h.format (.inr hc)
    exact ⟨_, _, decode_decode hc, decode_decode (h.cmd ▸ hc), ha ▸ htf ▸ hdf ▸ sameAnswer_refl _⟩

/-- Instructions with one answer, in states of one configuration, get one response or are both refused. -/
theorem exec_of_sameAnswer {i i' : Instr} {s s' : State} (h : SameAnswer i i') (hc : s.config = s'.config) :
    (∃ p : Response, exec i s = .next (answered s p) ∧ exec i' s' = .next (answered s' p)) ∨
      (exec i s = .refused .bufferTooLong ∧ exec i' s' = .refused .bufferTooLong) := by
  obtain ⟨hwf, hresp⟩ := h s'.config
  by_cases hi : i'.wellFormed s'.config = true
  · refine .inl ⟨instrResponse s'.config i', ?_, exec_of_wellFormed hi⟩
    rw [exec_of_wellFormed (hc ▸ hwf.trans hi), hc, hresp]
  · exact .inr ⟨exec_of_not_wellFormed (by rwa [hc, hwf]), exec_of_not_wellFormed hi⟩

/-- Settles O36: a legal word's two requests decode to instructions with one answer, and an illegal word's
answer reads neither request. -/
theorem ignoredFieldsDoNotAffectTheResponse : Obligations.IgnoredFieldsDoNotAffectTheResponse := by
  intro s s' r r' hs hs' hc h
  by_cases hr : LegalCmd r.cmd
  · obtain ⟨i, i', hi, hi', hsame⟩ := decode_of_sameRead h hr
    rw [step_of_ready_ok hs hi, step_of_ready_ok hs' hi']
    exact exec_of_sameAnswer hsame hc
  · exact .inl ⟨_, step_of_ready_illegal hs hr, step_of_ready_illegal hs' (h.cmd ▸ hr)⟩

/-! ### Assembly lines -/

/-- Settles O4: each line of the table is the encoder's request for that operation, by computation. -/
theorem assemblyLinesAreTheirRequests : Obligations.AssemblyLinesAreTheirRequests := by
  refine ⟨?cksum, ?ckstep, ?pack, ?encode, ?decode, ?word⟩
  case cksum => intro buf; rfl
  case ckstep => intro acc byte; rfl
  case pack => intro word value off mask; rfl
  case encode => intro t d toff tmask doff dmask; rfl
  case decode => intro word toff tmask doff dmask; rfl
  case word => intro cmd; rfl

end Sys2Proof.Machine
end

section
/-! The checksum family (40_checksum.md): what CKSUM and CKSTEP answer, over the table and the bytes themselves. -/

namespace Sys2Proof.Machine

/-! ### The operand bytes and the buffer's length -/

/-- The low byte as the truncation of the word (R10). -/
theorem lowByte_eq_setWidth (v : Word) : lowByte v = v.setWidth 8 :=
  (BitVec.setWidth_eq_extractLsb' (by decide)).symm

/-- The machine's check of a buffer's length is the rule's (R60). -/
theorem fitsMaxLen_iff (c : Config) (buf : List Byte) : c.fitsMaxLen buf = true ↔ Fits c buf := by
  unfold Config.fitsMaxLen Fits
  cases c.ckMaxLen with
  | none => simp
  | some m => simp

/-- The empty buffer fits every bound (R60). -/
theorem fits_nil (c : Config) : Fits c [] := fun m _ => Nat.zero_le m

/-! ### What the two instructions answer -/

theorem exec_cksum_of_fits {s : State} {buf : List Byte} (h : Fits s.config buf) :
    exec (.cksum buf) s = .next (answered s ⟨0x00000001, zext32 (loopFrom s.config 0xFF buf), 0, none⟩) := by
  have hresp : instrResponse s.config (.cksum buf) =
      ⟨0x00000001, zext32 (loopFrom s.config 0xFF buf), 0, none⟩ := by
    simp only [instrResponse, okResponse, statusOk_eq, checksum, seed, checksumFrom_eq_loopFrom]
  have hwf : (Instr.cksum buf).wellFormed s.config = true := (fitsMaxLen_iff s.config buf).2 h
  rw [exec_of_wellFormed hwf, hresp]

theorem exec_cksum_of_not_fits {s : State} {buf : List Byte} (h : ¬ Fits s.config buf) :
    exec (.cksum buf) s = .refused .bufferTooLong :=
  exec_of_not_wellFormed (mt (fitsMaxLen_iff s.config buf).1 h)

theorem exec_ckstep (s : State) (a b : Word) :
    exec (.ckstep a b) s = .next (answered s ⟨0x00000001,
      (tableRead s.config (a.setWidth 8 ^^^ b.setWidth 8)).setWidth 32, 0, none⟩) := by
  have hresp : instrResponse s.config (.ckstep a b) = ⟨0x00000001,
      (tableRead s.config (a.setWidth 8 ^^^ b.setWidth 8)).setWidth 32, 0, none⟩ := by
    simp only [instrResponse, okResponse, statusOk_eq, ckUpdate, zext32, lowByte_eq_setWidth]
  rw [exec_of_wellFormed rfl, hresp]

/-! ### The statements -/

/-- Settles O7: a fitting buffer is answered with the loop's result, of which the empty buffer and the single
byte are the loop's first two cases; a longer one is refused. -/
theorem cksumAnswersTheChecksumOfTheBuffer : Obligations.CksumAnswersTheChecksumOfTheBuffer := by
  refine ⟨?decodes, ?fits, ?tooLong, ?empty, ?single⟩
  case decodes => exact fun r h => decode_cksum h
  case fits => exact fun s buf h => exec_cksum_of_fits h
  case tooLong => exact fun s buf h => exec_cksum_of_not_fits h
  case empty => exact fun s => exec_cksum_of_fits (fits_nil s.config)
  case single => exact fun s x h => exec_cksum_of_fits h

/-- Settles O9: one update of the two low bytes; operands with the same low bytes give the same answer, and
XOR with an accumulator of 0 leaves the byte as the index. -/
theorem ckstepAnswersOneUpdate : Obligations.CkstepAnswersOneUpdate := by
  refine ⟨?decodes, ?answers, ?lowBytes, ?zeroAccumulator⟩
  case decodes => exact fun r h => decode_ckstep h
  case answers => exact exec_ckstep
  case lowBytes =>
    intro s a a' b b' ha hb
    rw [exec_ckstep, exec_ckstep, ha, hb]
  case zeroAccumulator =>
    intro s x
    have hindex : (0 : Word).setWidth 8 ^^^ (x.setWidth 32).setWidth 8 = x := by simp
    rw [exec_ckstep, hindex]

end Sys2Proof.Machine
end

section
/-! The field packing family (41_field_packing.md): what PACK answers, by the descriptor and the value, and the
answer of every operation to an ill-formed descriptor. -/

namespace Sys2Proof.Machine

/-! ### The range check, bit by bit -/

/-- A mask, contiguous or with holes, admits exactly the values whose set bits are set in it (R74). -/
theorem inRange_iff_forall_bit (v : Word) (fd : FieldDesc) :
    InRange v fd ↔ ∀ i, v.getLsbD i = true → fd.mask.getLsbD i = true := by
  constructor
  · intro h i hv
    have hbit : (v &&& fd.mask).getLsbD i = true := by rwa [h]
    rw [BitVec.getLsbD_and, Bool.and_eq_true] at hbit
    exact hbit.2
  · intro h
    apply BitVec.eq_of_getLsbD_eq
    intro i _
    rw [BitVec.getLsbD_and, Bool.and_eq_left_iff_imp]
    exact h i

theorem inRange_zero (fd : FieldDesc) : InRange 0 fd := BitVec.zero_and

theorem inRange_maskZero_iff (v off : Word) : InRange v ⟨off, 0⟩ ↔ v = 0 := by
  rw [InRange, BitVec.ofNat_eq_ofNat, BitVec.and_zero, eq_comm]

/-- The mask of all ones admits every value. -/
theorem inRange_fullMask (v off : Word) : InRange v ⟨off, 0xFFFFFFFF⟩ := BitVec.and_allOnes

/-- Merging by OR keeps every set bit of the word (R72). -/
theorem and_or_self_eq (a x : Word) : a &&& (a ||| x) = a := by
  apply BitVec.eq_of_getLsbD_eq
  intro i _
  rw [BitVec.getLsbD_and, BitVec.getLsbD_or, Bool.and_eq_left_iff_imp]
  intro ha
  rw [ha, Bool.true_or]

/-! ### The answer to an ill-formed descriptor -/

/-- FMT_ERR, whatever the operation would have answered (R67, R92). -/
theorem respondChecked_illFormed {s : State} {fds : List FieldDesc} {p : Response}
    (h : ¬ ∀ fd ∈ fds, WFDesc fd) :
    s.respondChecked fds p = answered s ⟨0x00000010, 0, 0, none⟩ := by
  rw [respondChecked_of_not_wf h, respond_eq_answered, fmtErrResponse_eq]

theorem not_forall_wf_pair {tf df : FieldDesc} (h : ¬ WFDesc tf ∨ ¬ WFDesc df) :
    ¬ ∀ fd ∈ [tf, df], WFDesc fd := by
  rwa [List.forall_mem_cons, List.forall_mem_singleton, not_and_or]

theorem exec_encode_illFormed {s : State} {t d : Word} {tf df : FieldDesc}
    (h : ¬ WFDesc tf ∨ ¬ WFDesc df) :
    exec (.encode t d tf df) s = .next (answered s ⟨0x00000010, 0, 0, none⟩) :=
  congrArg _ (respondChecked_illFormed (not_forall_wf_pair h))

theorem exec_decode_illFormed {s : State} {w : Word} {tf df : FieldDesc}
    (h : ¬ WFDesc tf ∨ ¬ WFDesc df) :
    exec (.decode w tf df) s = .next (answered s ⟨0x00000010, 0, 0, none⟩) :=
  congrArg _ (respondChecked_illFormed (not_forall_wf_pair h))

/-! ### The three answers of PACK (R70) -/

theorem exec_pack_illFormed {s : State} {a b : Word} {fd : FieldDesc} (h : ¬ WFDesc fd) :
    exec (.pack a b fd) s = .next (answered s ⟨0x00000010, 0, 0, none⟩) :=
  congrArg _ (respondChecked_illFormed (mt List.forall_mem_singleton.1 h))

theorem exec_pack_of_wf {s : State} {a b : Word} {fd : FieldDesc} (h : WFDesc fd) :
    exec (.pack a b fd) s = .next (answered s (packResponse a b fd)) :=
  congrArg _ (respondChecked_of_wf (List.forall_mem_singleton.2 h))

theorem exec_pack_inRange {s : State} {a b : Word} {fd : FieldDesc} (h : WFDesc fd) (hb : InRange b fd) :
    exec (.pack a b fd) s = .next (answered s ⟨0x00000001, a ||| (b <<< fd.off.toNat), 0, none⟩) := by
  have hresp : packResponse a b fd = ⟨0x00000001, a ||| (b <<< fd.off.toNat), 0, none⟩ := by
    simp only [packResponse, packField_ok hb, okResponse, statusOk_eq]
  rw [exec_pack_of_wf h, hresp]

theorem exec_pack_outOfRange {s : State} {a b : Word} {fd : FieldDesc} (h : WFDesc fd)
    (hb : ¬ InRange b fd) :
    exec (.pack a b fd) s =
      .next (answered s ⟨0x00000002, a, 0, some (.rangeViolation b fd.mask)⟩) := by
  have hresp : packResponse a b fd = ⟨0x00000002, a, 0, some (.rangeViolation b fd.mask)⟩ := by
    simp only [packResponse, packField_error hb, rangeResponse, statusRange_eq]
  rw [exec_pack_of_wf h, hresp]

/-- Packing 0 gives the word back: 0 is in every range, and its placed value sets no bit (R70). -/
theorem exec_pack_zeroValue {s : State} {a : Word} {fd : FieldDesc} (h : WFDesc fd) :
    exec (.pack a 0 fd) s = .next (answered s ⟨0x00000001, a, 0, none⟩) := by
  have hmerge : a ||| ((0 : Word) <<< fd.off.toNat) = a := by simp
  rw [exec_pack_inRange h (inRange_zero fd), hmerge]

/-- The field of the whole word takes every value where it stands (R70). -/
theorem exec_pack_fullWidth (s : State) (a b : Word) :
    exec (.pack a b ⟨0, 0xFFFFFFFF⟩) s = .next (answered s ⟨0x00000001, a ||| b, 0, none⟩) := by
  have hwf : WFDesc ⟨0, 0xFFFFFFFF⟩ := by decide
  have hplace : a ||| (b <<< (0 : Word).toNat) = a ||| b := by simp
  rw [exec_pack_inRange hwf (inRange_fullMask b 0), hplace]

/-! ### The statements -/

/-- Settles O16: the three answers, and each corner case as one of them at its operands. -/
theorem packChecksThenMerges : Obligations.PackChecksThenMerges := by
  refine ⟨?decodes, ?illFormed, ?merges, ?rejects, ?zeroValue, ?zeroMask, ?fullWidth, ?lastBit, ?pastLastBit,
    ?example5, ?example300⟩
  case decodes => exact fun r h => decode_pack h
  case illFormed => exact fun s a b tf h => exec_pack_illFormed h
  case merges => exact fun s a b tf h hb => exec_pack_inRange h hb
  case rejects => exact fun s a b tf h hb => exec_pack_outOfRange h hb
  case zeroValue => exact fun s a tf h => exec_pack_zeroValue h
  case zeroMask => exact inRange_maskZero_iff
  case fullWidth => exact exec_pack_fullWidth
  case lastBit => decide
  case pastLastBit => decide
  case example5 => exact fun s => exec_pack_inRange (by decide) (by decide)
  case example300 => exact fun s => exec_pack_outOfRange (by decide) (by decide)

/-- Settles O14: the range check reads the mask bit by bit, and the two values of the example fall on either
side of it. -/
theorem masksWithHolesAreAdmitted : Obligations.MasksWithHolesAreAdmitted := by
  refine ⟨?bits, fieldWF_iff, ?length, ?admits4, ?rejects2⟩
  case bits => exact fun v fd => (inRange_iff v fd).trans (inRange_iff_forall_bit v fd)
  case length => decide
  case admits4 => exact fun s w => exec_pack_inRange (by decide) (by decide)
  case rejects2 => exact fun s w => exec_pack_outOfRange (by decide) (by decide)

/-- Settles O18: in range the answer is the OR of the word and the placed value, out of range the word. -/
theorem packNeverClearsABit : Obligations.PackNeverClearsABit := by
  intro s a b fd h
  by_cases hb : InRange b fd
  · exact ⟨_, exec_pack_inRange h hb, and_or_self_eq a _, fun _ _ => BitVec.getLsbD_or, absurd hb⟩
  · exact ⟨_, exec_pack_outOfRange h hb, BitVec.and_self, fun hb' => absurd hb' hb, fun _ => rfl⟩

/-- Settles O15: the check is the rule's, and each operation that reads a descriptor answers by it first. -/
theorem illFormedDescriptorIsReported : Obligations.IllFormedDescriptorIsReported :=
  ⟨fieldWF_iff,
    fun _ _ _ _ h => exec_pack_illFormed h,
    fun _ _ _ _ _ h => exec_encode_illFormed h,
    fun _ _ _ _ h => exec_decode_illFormed h⟩

end Sys2Proof.Machine
end

section
/-! The register-word codec (42_word_codec.md): what ENCODE and DECODE answer, by the descriptors, the range checks
and the extracted type. -/

namespace Sys2Proof.Machine

/-! ### The response read back from the state -/

/-- The response port shows which response went out. -/
theorem answered_inj {s : State} {p q : Response} (h : answered s p = answered s q) : p = q := by
  have hport : (answered s p).respPort = (answered s q).respPort := congrArg State.respPort h
  exact Option.some.inj hport

theorem forall_wf_pair {tf df : FieldDesc} (htf : WFDesc tf) (hdf : WFDesc df) :
    ∀ fd ∈ [tf, df], WFDesc fd :=
  List.forall_mem_cons.2 ⟨htf, List.forall_mem_singleton.2 hdf⟩

/-- A descriptor with mask 0 is well formed at every legal offset (R67). -/
theorem wfDesc_maskZero {off : Word} (h : off.toNat ≤ 31) : WFDesc ⟨off, 0⟩ := by
  have hlen : bitlen 0 = 0 := by decide
  refine ⟨h, ?_⟩
  show off.toNat + bitlen 0 ≤ 32
  omega

/-! ### Extraction -/

theorem extract_zero (fd : FieldDesc) : extract 0 fd = 0 := by simp [extract]

theorem extract_maskZero (w off : Word) : extract w ⟨off, 0⟩ = 0 := by simp [extract]

theorem getLsbD_extract (w : Word) (fd : FieldDesc) (i : Nat) :
    (extract w fd).getLsbD i = (w.getLsbD (fd.off.toNat + i) && fd.mask.getLsbD i) := by
  rw [extract, BitVec.getLsbD_and, BitVec.getLsbD_ushiftRight]

/-- A placed value's bits stand `off` higher, as far as the word reaches. -/
theorem getLsbD_place_add (v : Word) (fd : FieldDesc) {i : Nat} (h : fd.off.toNat + i < 32) :
    (place v fd).getLsbD (fd.off.toNat + i) = v.getLsbD i := by
  rw [place, BitVec.getLsbD_shiftLeft, Nat.add_sub_cancel_left]
  simp [h]

/-- Extraction works bit by bit, so it passes over an OR. -/
theorem extract_or (w w' : Word) (fd : FieldDesc) :
    extract (w ||| w') fd = extract w fd ||| extract w' fd := by
  apply BitVec.eq_of_getLsbD_eq
  intro i _
  simp only [getLsbD_extract, BitVec.getLsbD_or, Bool.and_or_distrib_right]

/-- A word with no bit in the field's place extracts to 0. -/
theorem extract_eq_zero_of_disjoint {w : Word} {fd : FieldDesc} (h : w &&& place fd.mask fd = 0) :
    extract w fd = 0 := by
  apply BitVec.eq_of_getLsbD_eq
  intro i _
  rw [getLsbD_extract, BitVec.ofNat_eq_ofNat, BitVec.getLsbD_zero]
  by_cases hlt : fd.off.toNat + i < 32
  · rw [← getLsbD_place_add fd.mask fd hlt, ← BitVec.getLsbD_and, h, BitVec.ofNat_eq_ofNat,
      BitVec.getLsbD_zero]
  · rw [BitVec.getLsbD_of_ge w _ (Nat.le_of_not_lt hlt), Bool.false_and]

/-- A word with no bit under a mask has none under a part of the mask. -/
theorem and_eq_zero_of_submask {w m m' : Word} (h : w &&& m = 0) (hm : m &&& m' = m') : w &&& m' = 0 := by
  rw [← hm, ← BitVec.and_assoc, h]
  exact BitVec.zero_and

/-! ### The answers of ENCODE (R78) -/

theorem exec_encode_of_wf {s : State} {t d : Word} {tf df : FieldDesc} (htf : WFDesc tf) (hdf : WFDesc df) :
    exec (.encode t d tf df) s = .next (answered s (encodeResponse s.config t d tf df)) :=
  congrArg _ (respondChecked_of_wf (forall_wf_pair htf hdf))

theorem exec_encode_typeOutOfRange {s : State} {t d : Word} {tf df : FieldDesc} (htf : WFDesc tf)
    (hdf : WFDesc df) (ht : ¬ InRange t tf) :
    exec (.encode t d tf df) s =
      .next (answered s ⟨0x00000002, 0, 0, some (.rangeViolation t tf.mask)⟩) := by
  have hresp : encodeResponse s.config t d tf df =
      ⟨0x00000002, 0, 0, some (.rangeViolation t tf.mask)⟩ := by
    simp only [encodeResponse, packField_error ht, rangeResponse, statusRange_eq]
  rw [exec_encode_of_wf htf hdf, hresp]

theorem exec_encode_dataOutOfRange {s : State} {t d : Word} {tf df : FieldDesc} (htf : WFDesc tf)
    (hdf : WFDesc df) (ht : InRange t tf) (hd : ¬ InRange d df) :
    exec (.encode t d tf df) s =
      .next (answered s ⟨0x00000006, 0, 0, some (.rangeViolation d df.mask)⟩) := by
  have hresp : encodeResponse s.config t d tf df =
      ⟨0x00000006, 0, 0, some (.rangeViolation d df.mask)⟩ := by
    simp only [encodeResponse, packField_ok ht, packField_error hd, rangeResponse, statusRangeData_eq]
  rw [exec_encode_of_wf htf hdf, hresp]

theorem exec_encode_inRange {s : State} {t d : Word} {tf df : FieldDesc} (htf : WFDesc tf)
    (hdf : WFDesc df) (ht : InRange t tf) (hd : InRange d df) :
    exec (.encode t d tf df) s = .next (answered s ⟨0x00000001,
      0 ||| (t <<< tf.off.toNat) ||| (d <<< df.off.toNat) ||| s.config.originTag, 0, none⟩) := by
  have hresp : encodeResponse s.config t d tf df = ⟨0x00000001,
      0 ||| (t <<< tf.off.toNat) ||| (d <<< df.off.toNat) ||| s.config.originTag, 0, none⟩ := by
    simp only [encodeResponse, packField_ok ht, packField_ok hd, okResponse, statusOk_eq]
  rw [exec_encode_of_wf htf hdf, hresp]

/-- A response without an event is the answer to a message in range: each failure reports its field (R79). -/
theorem inRange_of_exec_encode_noEvent {s : State} {t d : Word} {tf df : FieldDesc} {p : Response}
    (htf : WFDesc tf) (hdf : WFDesc df) (h : exec (.encode t d tf df) s = .next (answered s p))
    (hp : p.diag = none) : InRange t tf ∧ InRange d df := by
  rw [exec_encode_of_wf htf hdf] at h
  have hresp : encodeResponse s.config t d tf df = p := answered_inj (Host.Outcome.next.inj h)
  rcases encodeResponse_cases s.config t d tf df with ⟨_, he⟩ | ⟨_, _, he⟩ | ⟨ht, hd, _⟩
  · rw [← hresp, he] at hp; cases hp
  · rw [← hresp, he] at hp; cases hp
  · exact ⟨ht, hd⟩

/-- The message of zeros is in range of every format, and its word is the tag alone. -/
theorem exec_encode_zeroMessage {s : State} {tf df : FieldDesc} (htf : WFDesc tf) (hdf : WFDesc df) :
    exec (.encode 0 0 tf df) s = .next (answered s ⟨0x00000001, s.config.originTag, 0, none⟩) := by
  have hword : 0 ||| ((0 : Word) <<< tf.off.toNat) ||| ((0 : Word) <<< df.off.toNat) |||
      s.config.originTag = s.config.originTag := by simp
  rw [exec_encode_inRange htf hdf (inRange_zero tf) (inRange_zero df), hword]

/-- The source's example (R78): type 5 in bits 7:0 and data 1000 in bits 23:8. -/
theorem exec_encode_example (s : State) :
    exec (.encode 5 1000 ⟨0, 0xFF⟩ ⟨8, 0xFFFF⟩) s =
      .next (answered s ⟨0x00000001, s.config.originTag ||| 0x0003E805, 0, none⟩) := by
  have hword : 0 ||| ((5 : Word) <<< (0 : Word).toNat) ||| ((1000 : Word) <<< (8 : Word).toNat) =
      0x0003E805 := by decide
  rw [exec_encode_inRange (by decide) (by decide) (by decide) (by decide), hword, BitVec.or_comm]

/-! ### The answers of DECODE (R83, R84) -/

theorem exec_decode_of_wf {s : State} {w : Word} {tf df : FieldDesc} (htf : WFDesc tf) (hdf : WFDesc df) :
    exec (.decode w tf df) s = .next (answered s (decodeResponse w tf df)) :=
  congrArg _ (respondChecked_of_wf (forall_wf_pair htf hdf))

theorem decodeResponse_of_zeroType {w : Word} {tf df : FieldDesc} (h : extract w tf = 0) :
    decodeResponse w tf df = ⟨0x00000009, 0, extract w df, some .zeroType⟩ := by
  rw [decodeResponse, if_pos h, statusZeroType_eq]

theorem decodeResponse_of_nonzeroType {w : Word} {tf df : FieldDesc} (h : extract w tf ≠ 0) :
    decodeResponse w tf df = ⟨0x00000001, extract w tf, extract w df, none⟩ := by
  rw [decodeResponse, if_neg h, okResponse, statusOk_eq]

/-- The status tells a zero type from any other, and nothing else (R84, R85). -/
theorem decodeResponse_status (w : Word) (tf df : FieldDesc) :
    (decodeResponse w tf df).status = if extract w tf = 0 then 0x00000009 else 0x00000001 := by
  by_cases h : extract w tf = 0
  · rw [decodeResponse_of_zeroType h, if_pos h]
  · rw [decodeResponse_of_nonzeroType h, if_neg h]

/-- `r0` is the extracted type, the 0 of a reported zero type included. -/
theorem decodeResponse_r0 (w : Word) (tf df : FieldDesc) : (decodeResponse w tf df).r0 = extract w tf := by
  by_cases h : extract w tf = 0
  · rw [decodeResponse_of_zeroType h, h]
  · rw [decodeResponse_of_nonzeroType h]

theorem decodeResponse_r1 (w : Word) (tf df : FieldDesc) : (decodeResponse w tf df).r1 = extract w df := by
  by_cases h : extract w tf = 0
  · rw [decodeResponse_of_zeroType h]
  · rw [decodeResponse_of_nonzeroType h]

theorem exec_decode_zeroType {s : State} {w : Word} {tf df : FieldDesc} (htf : WFDesc tf)
    (hdf : WFDesc df) (h : extract w tf = 0) :
    exec (.decode w tf df) s = .next (answered s ⟨0x00000009, 0, extract w df, some .zeroType⟩) := by
  rw [exec_decode_of_wf htf hdf, decodeResponse_of_zeroType h]

theorem exec_decode_nonzeroType {s : State} {w : Word} {tf df : FieldDesc} (htf : WFDesc tf)
    (hdf : WFDesc df) (h : extract w tf ≠ 0) :
    exec (.decode w tf df) s = .next (answered s ⟨0x00000001, extract w tf, extract w df, none⟩) := by
  rw [exec_decode_of_wf htf hdf, decodeResponse_of_nonzeroType h]

/-- DECODE sees its word through the two extractions only (R85). -/
theorem exec_decode_congr {s : State} {w w' : Word} {tf df : FieldDesc} (ht : extract w tf = extract w' tf)
    (hd : extract w df = extract w' df) : exec (.decode w tf df) s = exec (.decode w' tf df) s := by
  have hresp : decodeResponse w tf df = decodeResponse w' tf df := by
    simp only [decodeResponse, ht, hd]
  show execDecode w tf df s = execDecode w' tf df s
  rw [execDecode, execDecode, hresp]

/-- The source's example read back: a tag outside bits 23:0 shows in neither field. -/
theorem exec_decode_example {s : State} (h : s.config.originTag &&& 0x00FFFFFF = 0) :
    exec (.decode (s.config.originTag ||| 0x0003E805) ⟨0, 0xFF⟩ ⟨8, 0xFFFF⟩) s =
      .next (answered s ⟨0x00000001, 5, 1000, none⟩) := by
  have htag0 : extract s.config.originTag ⟨0, 0xFF⟩ = 0 :=
    extract_eq_zero_of_disjoint (and_eq_zero_of_submask h (by decide))
  have htag8 : extract s.config.originTag ⟨8, 0xFFFF⟩ = 0 :=
    extract_eq_zero_of_disjoint (and_eq_zero_of_submask h (by decide))
  have htype : extract (s.config.originTag ||| 0x0003E805) ⟨0, 0xFF⟩ = 5 := by
    rw [extract_or, htag0]; decide
  have hdata : extract (s.config.originTag ||| 0x0003E805) ⟨8, 0xFFFF⟩ = 1000 := by
    rw [extract_or, htag8]; decide
  have hne : extract (s.config.originTag ||| 0x0003E805) ⟨0, 0xFF⟩ ≠ 0 := by rw [htype]; decide
  rw [exec_decode_nonzeroType (by decide) (by decide) hne, htype, hdata]

/-! ### The statements -/

/-- Settles O20: the four answers, and each corner case as one of them at its operands; with both masks 0 an
answer without an event leaves only the message of zeros. -/
theorem encodeChecksThenComposes : Obligations.EncodeChecksThenComposes := by
  refine ⟨?decodes, ?illFormed, ?typeOut, ?dataOut, ?composes, ?onlyZeros, ?zeros, ?exampleWord⟩
  case decodes => exact fun r h => decode_encode h
  case illFormed => exact fun s a b tf df h => exec_encode_illFormed h
  case typeOut => exact fun s a b tf df htf hdf ha => exec_encode_typeOutOfRange htf hdf ha
  case dataOut => exact fun s a b tf df htf hdf ha hb => exec_encode_dataOutOfRange htf hdf ha hb
  case composes => exact fun s a b tf df htf hdf ha hb => exec_encode_inRange htf hdf ha hb
  case onlyZeros =>
    intro s a b off off' hoff hoff' ⟨w, hw⟩
    obtain ⟨ha, hb⟩ :=
      inRange_of_exec_encode_noEvent (wfDesc_maskZero hoff) (wfDesc_maskZero hoff') hw rfl
    exact ⟨(inRange_maskZero_iff a off).1 ha, (inRange_maskZero_iff b off').1 hb⟩
  case zeros =>
    exact fun s off off' hoff hoff' =>
      exec_encode_zeroMessage (wfDesc_maskZero hoff) (wfDesc_maskZero hoff')
  case exampleWord => exact exec_encode_example

/-- Settles O21: one case per answer; the answer to a type out of range does not mention the data. -/
theorem encodeStopsAtTheFirstFailure : Obligations.EncodeStopsAtTheFirstFailure := by
  intro s t d tf df htf hdf
  by_cases ht : InRange t tf
  · by_cases hd : InRange d df
    · exact ⟨_, exec_encode_inRange htf hdf ht hd, absurd ht, fun _ => absurd hd, fun _ _ => rfl⟩
    · exact ⟨_, exec_encode_dataOutOfRange htf hdf ht hd, absurd ht, fun _ _ => rfl,
        fun _ hd' => absurd hd' hd⟩
  · exact ⟨_, exec_encode_typeOutOfRange htf hdf ht,
      fun _ => ⟨rfl, fun _ => exec_encode_typeOutOfRange htf hdf ht⟩,
      fun ht' => absurd ht' ht, fun ht' => absurd ht' ht⟩

/-- Settles O24: the three answers by the descriptors and the extracted type; a zero mask and the zero word
extract to 0. -/
theorem decodeExtractsBothFields : Obligations.DecodeExtractsBothFields := by
  refine ⟨?decodes, ?extraction, ?illFormed, ?zeroType, ?nonzeroType, ?zeroMask, ?zeroWord, ?exampleWord⟩
  case decodes => exact fun r h => decode_decode h
  case extraction => exact fun w fd => rfl
  case illFormed => exact fun s a tf df h => exec_decode_illFormed h
  case zeroType => exact fun s a tf df htf hdf h => exec_decode_zeroType htf hdf h
  case nonzeroType => exact fun s a tf df htf hdf h => exec_decode_nonzeroType htf hdf h
  case zeroMask =>
    exact fun s a off df hoff hdf =>
      exec_decode_zeroType (wfDesc_maskZero hoff) hdf (extract_maskZero a off)
  case zeroWord =>
    intro s tf df htf hdf
    rw [exec_decode_zeroType htf hdf (extract_zero tf), extract_zero df]
  case exampleWord => exact fun s h => exec_decode_example h

/-- Settles O25: the answer is a function of the two extractions, and extraction passes over the OR with the
tag. -/
theorem decodeValidatesNothingElse : Obligations.DecodeValidatesNothingElse := by
  refine ⟨?status, ?extractionsOnly, ?tag⟩
  case status =>
    exact fun s w tf df htf hdf =>
      ⟨_, exec_decode_of_wf htf hdf, decodeResponse_status w tf df, decodeResponse_r1 w tf df⟩
  case extractionsOnly => exact fun s w w' tf df ht hd => exec_decode_congr ht hd
  case tag =>
    intro s w tf df htf hdf
    refine ⟨_, exec_decode_of_wf htf hdf, ?_, ?_⟩
    · rw [decodeResponse_r0, extract_or]
    · rw [decodeResponse_r1, extract_or]

end Sys2Proof.Machine
end

section
/-! The exceptions family (60_exceptions.md): the order in which a ready request's conditions are reported. -/

namespace Sys2Proof.Machine

/-! ### The step at a ready request of the operations that read a descriptor -/

section
variable {s : State} {r : Request}

theorem step_of_ready_pack (h : Ready s r) (hc : r.cmd = 3) : step s = exec (.pack r.a r.b r.tf) s :=
  step_of_ready_ok h (decode_pack hc)

theorem step_of_ready_encode (h : Ready s r) (hc : r.cmd = 4) :
    step s = exec (.encode r.a r.b r.tf r.df) s :=
  step_of_ready_ok h (decode_encode hc)

theorem step_of_ready_decode (h : Ready s r) (hc : r.cmd = 5) : step s = exec (.decode r.a r.tf r.df) s :=
  step_of_ready_ok h (decode_decode hc)

/-- The codec checks both descriptors before anything else, ENCODE and DECODE alike (R67, R96). -/
theorem step_of_ready_codec_illFormed (h : Ready s r) (hc : r.cmd = 4 ∨ r.cmd = 5)
    (hfmt : ¬ WFDesc r.tf ∨ ¬ WFDesc r.df) : step s = .next (answered s ⟨0x00000010, 0, 0, none⟩) := by
  rcases hc with hc | hc
  · rw [step_of_ready_encode h hc, exec_encode_illFormed hfmt]
  · rw [step_of_ready_decode h hc, exec_decode_illFormed hfmt]

end

/-! ### The statement -/

/-- Settles O29: the decoder's verdict comes first, and then each operation's answers in the order of its
checks. -/
theorem onlyTheFirstConditionIsReported : Obligations.OnlyTheFirstConditionIsReported := by
  intro s r hready
  refine ⟨?illegal, ?packFmt, ?codecFmt, ?packRange, ?encodeType, ?encodeData, ?zeroType⟩
  case illegal => exact step_of_ready_illegal hready
  case packFmt =>
    intro hc hfmt
    rw [step_of_ready_pack hready hc, exec_pack_illFormed hfmt]
  case codecFmt => exact step_of_ready_codec_illFormed hready
  case packRange =>
    intro hc htf hb
    rw [step_of_ready_pack hready hc, exec_pack_outOfRange htf hb]
  case encodeType =>
    intro hc htf hdf ha
    rw [step_of_ready_encode hready hc, exec_encode_typeOutOfRange htf hdf ha]
  case encodeData =>
    intro hc htf hdf ha hb
    rw [step_of_ready_encode hready hc, exec_encode_dataOutOfRange htf hdf ha hb]
  case zeroType =>
    intro hc htf hdf hzero
    rw [step_of_ready_decode hready hc, exec_decode_zeroType htf hdf hzero]

end Sys2Proof.Machine
end

section
/-! Fields in words: the bit length and the range check by bits, and placing and extracting a value without
loss (00_scope.md section 4; 41_field_packing.md sections 2 and 4). -/

namespace Sys2Proof.Machine

/-! ### The bit length -/

/-- The bit length is at most `k` exactly when no bit from `k` up is set. -/
theorem bitlen_le_iff_forall_bit (m : Word) (k : Nat) :
    bitlen m ≤ k ↔ ∀ i, k ≤ i → m.getLsbD i = false := by
  rw [bitlen, bitlenBelow_le_iff]
  constructor
  · intro h i hk
    by_cases hi : i < 32
    · exact h i hk hi
    · exact BitVec.getLsbD_of_ge m i (Nat.le_of_not_lt hi)
  · exact fun h i hk _ => h i hk

theorem bitlen_eq_of_highestBit {m : Word} {i : Nat} (hi : m.getLsbD i = true)
    (habove : ∀ j, i < j → m.getLsbD j = false) : bitlen m = 1 + i := by
  have hle : bitlen m ≤ 1 + i :=
    (bitlen_le_iff_forall_bit m _).2 fun j hj => habove j (by omega)
  have hgt : ¬ bitlen m ≤ i := fun h => by
    have hclear := (bitlen_le_iff_forall_bit m i).1 h i le_rfl
    rw [hi] at hclear
    cases hclear
  omega

/-- Settles O12: the bit length bounds the set bits from above and is itself attained. -/
theorem bitLengthCountsToTheHighestSetBit : Obligations.BitLengthCountsToTheHighestSetBit := by
  refine ⟨?zero, ?highest, bitlen_le_iff, ?byte, ?half, ?holes, ?full⟩
  case zero => decide
  case highest => exact fun m i hi habove => bitlen_eq_of_highestBit hi habove
  case byte => decide
  case half => decide
  case holes => decide
  case full => decide

/-! ### The range check -/

/-- In range is: no bit of the value survives outside the mask (R68). -/
theorem inRange_iff_and_not_eq_zero (v : Word) (fd : FieldDesc) :
    InRange v fd ↔ v &&& ~~~ fd.mask = 0 := by
  rw [inRange_iff_forall_bit]
  constructor
  · intro h
    apply BitVec.eq_of_getLsbD_eq
    intro i hi
    cases hv : v.getLsbD i with
    | false => simp [hv]
    | true => simp [hi, h i hv]
  · intro h i hv
    have hi : i < 32 := BitVec.lt_of_getLsbD hv
    have hbit : (v &&& ~~~ fd.mask).getLsbD i = false := by rw [h]; simp
    simpa [hv, hi] using hbit

/-- Under a mask of the low `w` bits the range check is a bound. -/
theorem inRange_contiguous_iff {v off mask : Word} {w : Nat} (hmask : mask.toNat = 2 ^ w - 1) :
    InRange v ⟨off, mask⟩ ↔ v.toNat < 2 ^ w := by
  rw [InRange, ← BitVec.toNat_inj, BitVec.toNat_and, hmask, Nat.and_two_pow_sub_one_eq_mod]
  exact Nat.mod_eq_iff_lt (Nat.two_pow_pos w).ne'

/-- Settles O13: each reading of the range check, from the one by bits. -/
theorem rangeCheckPassesValuesWithinTheMask : Obligations.RangeCheckPassesValuesWithinTheMask := by
  refine ⟨inRange_iff, ?outside, ?offset, ?zero, ?contiguous⟩
  case outside => exact fun v fd => (inRange_iff v fd).trans (inRange_iff_and_not_eq_zero v fd)
  case offset => exact fun v off off' mask => rfl
  case zero => exact fun fd => (inRange_iff 0 fd).2 (inRange_zero fd)
  case contiguous =>
    exact fun v off mask w _ hmask => (inRange_iff v ⟨off, mask⟩).trans (inRange_contiguous_iff hmask)

/-! ### Placing and extracting -/

section
variable {v : Word} {fd : FieldDesc}

theorem le_mask_of_inRange (h : InRange v fd) : v.toNat ≤ fd.mask.toNat := by
  rw [← h, BitVec.toNat_and]
  exact Nat.and_le_right

theorem bitlen_le_of_inRange (h : InRange v fd) : bitlen v ≤ bitlen fd.mask := by
  rw [bitlen_le_iff]
  exact lt_of_le_of_lt (le_mask_of_inRange h) ((bitlen_le_iff fd.mask _).1 le_rfl)

/-- The field ends within the word, so the placed value does (R67). -/
theorem mul_two_pow_lt_of_inRange (hwf : WFDesc fd) (h : InRange v fd) :
    v.toNat * 2 ^ fd.off.toNat < 2 ^ 32 := by
  have hv : v.toNat < 2 ^ bitlen fd.mask := (bitlen_le_iff v _).1 (bitlen_le_of_inRange h)
  calc v.toNat * 2 ^ fd.off.toNat
      < 2 ^ bitlen fd.mask * 2 ^ fd.off.toNat := Nat.mul_lt_mul_of_pos_right hv (Nat.two_pow_pos _)
    _ = 2 ^ (fd.off.toNat + bitlen fd.mask) := by rw [← Nat.pow_add, Nat.add_comm]
    _ ≤ 2 ^ 32 := Nat.pow_le_pow_right (by decide) hwf.2

theorem place_toNat (hwf : WFDesc fd) (h : InRange v fd) :
    (place v fd).toNat = v.toNat * 2 ^ fd.off.toNat := by
  rw [place, BitVec.toNat_shiftLeft, Nat.shiftLeft_eq, Nat.mod_eq_of_lt (mul_two_pow_lt_of_inRange hwf h)]

theorem place_ushiftRight (hwf : WFDesc fd) (h : InRange v fd) : place v fd >>> fd.off.toNat = v := by
  apply BitVec.eq_of_toNat_eq
  rw [BitVec.toNat_ushiftRight, place_toNat hwf h, Nat.shiftRight_eq_div_pow,
    Nat.mul_div_cancel _ (Nat.two_pow_pos _)]

theorem extract_place (hwf : WFDesc fd) (h : InRange v fd) : extract (place v fd) fd = v := by
  rw [extract, place_ushiftRight hwf h]
  exact h

/-- Merging into a word leaves the field's own bits of the word beside the value (R72). -/
theorem extract_or_place (w : Word) (hwf : WFDesc fd) (h : InRange v fd) :
    extract (w ||| place v fd) fd = extract w fd ||| v := by
  rw [extract_or, extract_place hwf h]

end

/-- Settles O17: the value is below `2 ^ bitlen mask`, so its product with `2 ^ off` stays within the word. -/
theorem placingAnInRangeValueLosesNoBit : Obligations.PlacingAnInRangeValueLosesNoBit :=
  fun _ _ hwf h =>
    ⟨le_mask_of_inRange h, bitlen_le_of_inRange h, place_toNat hwf h, place_ushiftRight hwf h⟩

/-- Settles O19: PACK answers the word merged with the placed value, and the word extracts to 0. -/
theorem extractAfterPackGivesTheValue : Obligations.ExtractAfterPackGivesTheValue := by
  intro s w v fd hwf h hclear
  have hextract : extract (w ||| place v fd) fd = v := by
    rw [extract_or_place w hwf h, show extract w fd = 0 from hclear]
    exact BitVec.zero_or
  exact ⟨_, exec_pack_inRange hwf h, hextract, hextract⟩

end Sys2Proof.Machine
end

section
/-! Round trips of the register-word codec (42_word_codec.md sections 2 and 4): what DECODE reads back from
ENCODE's word, ENCODE as two PACKs, and the tag in the answer. -/

namespace Sys2Proof.Machine

/-! ### Disjoint fields -/

/-- A placed in-range value lies under its placed mask. -/
theorem place_mask_and_place {v : Word} {fd : FieldDesc} (h : InRange v fd) :
    place fd.mask fd &&& place v fd = place v fd := by
  rw [place, place, ← BitVec.shiftLeft_and_distrib, BitVec.and_comm, h]

/-- A value placed in one of two disjoint fields does not show in the other. -/
theorem extract_place_of_disjoint {v : Word} {fd fd' : FieldDesc} (h : InRange v fd)
    (hdisj : place fd'.mask fd' &&& place fd.mask fd = 0) : extract (place v fd) fd' = 0 := by
  apply extract_eq_zero_of_disjoint
  rw [BitVec.and_comm]
  exact and_eq_zero_of_submask hdisj (place_mask_and_place h)

/-- The word of a successful ENCODE (R78, R80). -/
def encodedWord (tag t d : Word) (tf df : FieldDesc) : Word :=
  0 ||| place t tf ||| place d df ||| tag

section
variable {t d : Word} {tf df : FieldDesc} (tag : Word)

theorem exec_encode_encodedWord {s : State} (htf : WFDesc tf) (hdf : WFDesc df) (ht : InRange t tf)
    (hd : InRange d df) : exec (.encode t d tf df) s =
      .next (answered s ⟨0x00000001, encodedWord s.config.originTag t d tf df, 0, none⟩) :=
  exec_encode_inRange htf hdf ht hd

/-- The type field of an encoded word holds the type and whatever the tag has there (C4). -/
theorem extract_encodedWord_type (htf : WFDesc tf) (ht : InRange t tf) (hd : InRange d df)
    (hdisj : place tf.mask tf &&& place df.mask df = 0) :
    extract (encodedWord tag t d tf df) tf = t ||| extract tag tf := by
  rw [encodedWord, extract_or, extract_or, extract_or_place 0 htf ht, extract_zero,
    extract_place_of_disjoint hd hdisj]
  simp

/-- The data field of an encoded word holds the data and whatever the tag has there (C4). -/
theorem extract_encodedWord_data (hdf : WFDesc df) (ht : InRange t tf) (hd : InRange d df)
    (hdisj : place tf.mask tf &&& place df.mask df = 0) :
    extract (encodedWord tag t d tf df) df = d ||| extract tag df := by
  have hdisj' : place df.mask df &&& place tf.mask tf = 0 := BitVec.and_comm _ _ ▸ hdisj
  rw [encodedWord, extract_or, extract_or_place _ hdf hd, extract_or, extract_zero,
    extract_place_of_disjoint ht hdisj']
  simp

/-- A tag disjoint from a field does not show in it. -/
theorem extract_tag_of_disjoint {fd : FieldDesc} (h : place fd.mask fd &&& tag = 0) :
    extract tag fd = 0 :=
  extract_eq_zero_of_disjoint (BitVec.and_comm _ _ ▸ h)

end

/-- DECODE succeeds on every word (R84, R85). -/
theorem decodeResponse_ok (w : Word) (tf df : FieldDesc) :
    (decodeResponse w tf df).status.getLsbD 0 = true := by
  rw [decodeResponse_status]
  split
  · decide
  · decide

/-! ### The statements -/

/-- Settles O27: each field of the encoded word, extracted. -/
theorem decodeShowsTheTagInsideAField : Obligations.DecodeShowsTheTagInsideAField := by
  intro s s' t d tf df htf hdf hdisj ht hd
  refine ⟨_, _, exec_encode_encodedWord htf hdf ht hd, exec_decode_of_wf htf hdf, ?type, ?data⟩
  case type => exact (decodeResponse_r0 _ tf df).trans (extract_encodedWord_type _ htf ht hd hdisj)
  case data => exact (decodeResponse_r1 _ tf df).trans (extract_encodedWord_data _ hdf ht hd hdisj)

/-- Settles O26: the fields of the encoded word hold the message and the tag's bits, and a tag disjoint from
both fields has none there. -/
theorem decodeAfterEncodeGivesTheMessage : Obligations.DecodeAfterEncodeGivesTheMessage := by
  intro s s' t d tf df htf hdf hdisj htag htag' ht hd
  refine ⟨_, _, exec_encode_encodedWord htf hdf ht hd, exec_decode_of_wf htf hdf,
    decodeResponse_ok _ tf df, ?type, ?data⟩
  case type =>
    rw [decodeResponse_r0, extract_encodedWord_type _ htf ht hd hdisj, extract_tag_of_disjoint _ htag]
    exact BitVec.or_zero
  case data =>
    rw [decodeResponse_r1, extract_encodedWord_data _ hdf ht hd hdisj, extract_tag_of_disjoint _ htag']
    exact BitVec.or_zero

/-- Settles O23: the word of ENCODE is built as two PACKs build it, and OR is commutative. -/
theorem encodeIsTwoPacksAndTheTag : Obligations.EncodeIsTwoPacksAndTheTag := by
  intro s t d tf df htf hdf ht hd
  refine ⟨_, _, exec_pack_inRange htf ht, exec_pack_inRange hdf hd, exec_encode_inRange htf hdf ht hd, ?_⟩
  rw [BitVec.or_comm _ s.config.originTag, ← BitVec.or_assoc, ← BitVec.or_assoc]
  simp

/-- A word with the tag OR'd in carries the tag, and a tag that is not 0 keeps it from being the sentinel. -/
theorem or_tag_carries {tag : Word} (w : Word) (h : tag ≠ 0) : (w ||| tag) &&& tag = tag ∧ w ||| tag ≠ 0 := by
  have hand : (w ||| tag) &&& tag = tag := by
    rw [BitVec.and_comm, BitVec.or_comm]
    exact and_or_self_eq tag w
  refine ⟨hand, fun hzero => h ?_⟩
  rw [← hand, hzero]
  exact BitVec.zero_and

/-- A response without OK and with the sentinel meets each demand on a failure. -/
theorem sentinel_of_notOk {p : Response} {carriesTag outOfRange : Prop} (hok : p.status.getLsbD 0 = false)
    (hr0 : p.r0 = 0) :
    (p.status.getLsbD 0 = true → carriesTag) ∧ (p.status.getLsbD 0 = false → p.r0 = 0) ∧
      (outOfRange → p.status.getLsbD 0 = false ∧ p.r0 = 0) :=
  ⟨fun hok' => absurd (hok.symm.trans hok') Bool.false_ne_true, fun _ => hr0, fun _ => ⟨hok, hr0⟩⟩

theorem statusOk_getLsbD_zero : (0x00000001 : Word).getLsbD 0 = true := by decide
theorem statusRange_getLsbD_zero : (0x00000002 : Word).getLsbD 0 = false := by decide
theorem statusRangeData_getLsbD_zero : (0x00000006 : Word).getLsbD 0 = false := by decide
theorem statusFmt_getLsbD_zero : (0x00000010 : Word).getLsbD 0 = false := by decide

/-- Settles O22: one case per answer of ENCODE; only the last carries the tag. -/
theorem encodeAnswersZeroExactlyOnFailure : Obligations.EncodeAnswersZeroExactlyOnFailure := by
  intro s t d tf df htag
  by_cases hwf : WFDesc tf ∧ WFDesc df
  · obtain ⟨htf, hdf⟩ := hwf
    by_cases ht : InRange t tf
    · by_cases hd : InRange d df
      · refine ⟨_, exec_encode_inRange htf hdf ht hd, fun _ => or_tag_carries _ htag, ?notOk, ?outOfRange⟩
        case notOk => exact fun hnot => absurd (statusOk_getLsbD_zero.symm.trans hnot) Bool.noConfusion
        case outOfRange => exact fun hout => absurd hout (not_or.2 ⟨not_not.2 ht, not_not.2 hd⟩)
      · exact ⟨_, exec_encode_dataOutOfRange htf hdf ht hd,
          sentinel_of_notOk statusRangeData_getLsbD_zero rfl⟩
    · exact ⟨_, exec_encode_typeOutOfRange htf hdf ht, sentinel_of_notOk statusRange_getLsbD_zero rfl⟩
  · exact ⟨_, exec_encode_illFormed (not_and_or.1 hwf), sentinel_of_notOk statusFmt_getLsbD_zero rfl⟩

end Sys2Proof.Machine
end

section
/-! Streams and pseudo-instructions of the checksum (40_checksum.md section 3; 30_encoding.md section 4). -/

namespace Sys2Proof.Machine

/-! ### The loop -/

theorem loopFrom_append (c : Config) (acc : Byte) (p q : List Byte) :
    loopFrom c acc (p ++ q) = loopFrom c (loopFrom c acc p) q :=
  List.foldl_append

/-- A byte equal to the accumulator reads entry 0, whatever the table (R66). -/
theorem loopFrom_append_self (c : Config) (acc : Byte) (p : List Byte) :
    loopFrom c acc (p ++ [loopFrom c acc p]) = tableRead c 0 := by
  have hindex : loopFrom c acc p ^^^ loopFrom c acc p = 0 := BitVec.xor_self
  rw [loopFrom_append]
  show tableRead c (loopFrom c acc p ^^^ loopFrom c acc p) = _
  rw [hindex]

theorem zext32_setWidth (b : Byte) : (zext32 b).setWidth 8 = b := by
  rw [← lowByte_eq_setWidth, lowByte_zext32]

/-- Whatever response CKSUM gave, its low byte is the checksum. -/
theorem setWidth_r0_of_exec_cksum {s t : State} {p : List Byte} {w : Response}
    (h : exec (.cksum p) s = .next t) (hw : t.respPort = some w) :
    w.r0.setWidth 8 = loopFrom s.config 0xFF p := by
  have hfits : Fits s.config p := by
    by_contra hn
    rw [exec_cksum_of_not_fits hn] at h
    cases h
  rw [exec_cksum_of_fits hfits] at h
  cases h
  cases hw
  exact zext32_setWidth _

/-- Settles O11: the loop runs through `p` first, and then meets its own result. -/
theorem checksumOfConcatenationAndOfAppendedChecksum :
    Obligations.ChecksumOfConcatenationAndOfAppendedChecksum := by
  refine ⟨?concatenation, ?appended⟩
  case concatenation =>
    intro s p q h
    rw [exec_cksum_of_fits h, loopFrom_append]
    rfl
  case appended =>
    intro s t p w hexec hw h
    rw [exec_cksum_of_fits h, setWidth_r0_of_exec_cksum hexec hw, loopFrom_append_self]
    rfl

/-! ### Streaming -/

/-- One CKSTEP of the stream passes the update on to the rest (R64). -/
theorem streamed_cons (s : State) (acc x : Byte) (rest : List Byte) :
    streamed s acc (x :: rest) =
      streamed (answered s ⟨0x00000001, zext32 (tableRead s.config (acc ^^^ x)), 0, none⟩)
        (tableRead s.config (acc ^^^ x)) rest := by
  have hexec := exec_ckstep s (zext32 acc) (zext32 x)
  rw [zext32_setWidth, zext32_setWidth] at hexec
  rw [streamed, hexec]
  exact congrArg (fun b => streamed _ b rest) (lowByte_zext32 _)

theorem streamed_eq_loopFrom (s : State) (acc : Byte) (buf : List Byte) :
    streamed s acc buf = some (loopFrom s.config acc buf) := by
  induction buf generalizing s acc with
  | nil => rfl
  | cons x rest ih =>
    rw [streamed_cons, ih]
    rfl

/-- Settles O10: the stream and CKSUM both run the loop of R61. -/
theorem streamedCkstepsAgreeWithCksum : Obligations.StreamedCkstepsAgreeWithCksum :=
  fun s buf h => ⟨_, streamed_eq_loopFrom s 0xFF buf, exec_cksum_of_fits h⟩

/-! ### Pseudo-instructions -/

theorem exec_tblrd (s : State) (x : Byte) : exec (Pseudo.tblrd x).expand s =
    .next (answered s ⟨1, (tableRead s.config x).setWidth 32, 0, none⟩) := by
  obtain ⟨_, _, _, hzeroAccumulator⟩ := ckstepAnswersOneUpdate
  exact hzeroAccumulator s x

theorem exec_rangechk_inRange {s : State} {v : Word} {fd : FieldDesc} (hwf : WFDesc fd) (hv : InRange v fd) :
    exec (Pseudo.rangechk v fd).expand s = .next (answered s ⟨1, v <<< fd.off.toNat, 0, none⟩) := by
  have hmerge : (0 : Word) ||| (v <<< fd.off.toNat) = v <<< fd.off.toNat := BitVec.zero_or
  show exec (.pack 0 v fd) s = _
  rw [exec_pack_inRange hwf hv, hmerge]

/-- Settles O5: each pseudo-instruction is the operation it expands to, at its operands. -/
theorem pseudoInstructionsDoWhatTheyExpandTo : Obligations.PseudoInstructionsDoWhatTheyExpandTo := by
  refine ⟨?ckseed, exec_tblrd, ?passes, ?fails⟩
  case ckseed => exact fun s => exec_cksum_of_fits (fits_nil s.config)
  case passes => exact fun s v fd hwf hv => exec_rangechk_inRange hwf hv
  case fails => exact fun s v fd hwf hv => exec_pack_outOfRange hwf hv

end Sys2Proof.Machine
end

section
/-! Decoding and encoding agree (30_encoding.md sections 1 and 2), and the step runs what the decoder answers. -/

namespace Sys2Proof.Machine

/-- What the decoder answers for a request it accepts, read backwards: the command word and the operands. -/
theorem decode_ok_cases {r : Request} {i : Instr} (h : decode r = .ok i) :
    (r.cmd = 1 ∧ i = .cksum r.buf) ∨ (r.cmd = 2 ∧ i = .ckstep r.a r.b) ∨
      (r.cmd = 3 ∧ i = .pack r.a r.b r.tf) ∨ (r.cmd = 4 ∧ i = .encode r.a r.b r.tf r.df) ∨
      (r.cmd = 5 ∧ i = .decode r.a r.tf r.df) := by
  rcases (decode_ok_iff_legalCmd r).1 ⟨i, h⟩ with hc | hc | hc | hc | hc
  · exact .inl ⟨hc, Except.ok.inj (h.symm.trans (decode_cksum hc))⟩
  · exact .inr (.inl ⟨hc, Except.ok.inj (h.symm.trans (decode_ckstep hc))⟩)
  · exact .inr (.inr (.inl ⟨hc, Except.ok.inj (h.symm.trans (decode_pack hc))⟩))
  · exact .inr (.inr (.inr (.inl ⟨hc, Except.ok.inj (h.symm.trans (decode_encode hc))⟩)))
  · exact .inr (.inr (.inr (.inr ⟨hc, Except.ok.inj (h.symm.trans (decode_decode hc))⟩)))

/-- Every operand comes back from the slot the encoder wrote it to (R47). -/
theorem decode_encode_eq (i : Instr) : decode (encode i) = .ok i := by
  cases i with
  | cksum buf => exact decode_cksum rfl
  | ckstep a b => exact decode_ckstep rfl
  | pack w v fd => exact decode_pack rfl
  | encode t d tf df => exact decode_encode rfl
  | decode w tf df => exact decode_decode rfl

section
variable {r : Request}

theorem keepRead_cksum (h : r.cmd = 1) : keepRead r = { Request.ofCmd 1 with buf := r.buf } := by
  simp [keepRead, h]

theorem keepRead_ckstep (h : r.cmd = 2) : keepRead r = { Request.ofCmd 2 with a := r.a, b := r.b } := by
  simp [keepRead, h]

theorem keepRead_pack (h : r.cmd = 3) :
    keepRead r = { Request.ofCmd 3 with a := r.a, b := r.b, tf := r.tf } := by
  simp [keepRead, h]

theorem keepRead_encode (h : r.cmd = 4) :
    keepRead r = { Request.ofCmd 4 with a := r.a, b := r.b, tf := r.tf, df := r.df } := by
  simp [keepRead, h]

theorem keepRead_decode (h : r.cmd = 5) :
    keepRead r = { Request.ofCmd 5 with a := r.a, tf := r.tf, df := r.df } := by
  simp [keepRead, h]

end

/-- The encoder writes exactly the fields the operation reads (R47, R54). -/
theorem encode_eq_keepRead {r : Request} {i : Instr} (h : decode r = .ok i) : encode i = keepRead r := by
  rcases decode_ok_cases h with ⟨hc, rfl⟩ | ⟨hc, rfl⟩ | ⟨hc, rfl⟩ | ⟨hc, rfl⟩ | ⟨hc, rfl⟩
  · exact (keepRead_cksum hc).symm
  · exact (keepRead_ckstep hc).symm
  · exact (keepRead_pack hc).symm
  · exact (keepRead_encode hc).symm
  · exact (keepRead_decode hc).symm

/-- Settles O2: the decoder inverts the encoder, and the encoder the decoder up to the ignored fields. -/
theorem decodeAndEncodeAgree : Obligations.DecodeAndEncodeAgree :=
  ⟨decode_encode_eq, fun _ _ h => encode_eq_keepRead h⟩

/-! ### Table words -/

theorem decodeTableWord_eq_some_iff {nbits w : Nat} {i : Instr} :
    decodeTableWord nbits w = some i ↔ decode (Request.ofTableWord nbits w) = .ok i := by
  unfold decodeTableWord
  cases decode (Request.ofTableWord nbits w) with
  | ok j => simp
  | error e => simp

theorem decodeTableWord_eq_none {nbits w : Nat} (h : ¬ LegalCmd (Request.ofTableWord nbits w).cmd) :
    decodeTableWord nbits w = none := by
  obtain ⟨e, he⟩ := decode_illegal h
  rw [decodeTableWord, he]

/-- Settles O3: the five words by the decoder's rule for each, the others by its rule for illegal words. -/
theorem tableWordsDecode : Obligations.TableWordsDecode := by
  refine ⟨?cksum, ?ckstep, ?pack, ?encode, ?decode, ?zero, ?six, ?reserved4, ?reserved31⟩
  case cksum => exact decodeTableWord_eq_some_iff.2 (decode_cksum rfl)
  case ckstep => exact decodeTableWord_eq_some_iff.2 (decode_ckstep rfl)
  case pack => exact decodeTableWord_eq_some_iff.2 (decode_pack rfl)
  case encode => exact decodeTableWord_eq_some_iff.2 (decode_encode rfl)
  case decode => exact decodeTableWord_eq_some_iff.2 (decode_decode rfl)
  case zero => exact decodeTableWord_eq_none (by decide)
  case six => exact decodeTableWord_eq_none (by decide)
  case reserved4 => exact decodeTableWord_eq_none (by decide)
  case reserved31 => exact decodeTableWord_eq_none (by decide)

/-! ### The step at a placed request -/

theorem shieldReset_ne_reset (env rest : List PortEvent) : shieldReset env ≠ .reset :: rest := by
  cases env with
  | nil => simp [shieldReset]
  | cons e es => cases e <;> simp [shieldReset]

/-- A placed request is ready, whatever the environment was about to do. -/
theorem ready_withFetchWord {s : State} (nbits w : Nat) (h : s.config.originTag ≠ 0) :
    Ready (s.withFetchWord nbits w) (Request.ofTableWord nbits w) where
  config := h
  port := rfl
  noReset := shieldReset_ne_reset s.env

/-- Settles O31: a ready request is served, and serving a legal one is executing it. -/
theorem stepRunsTheDecodedInstruction : Obligations.StepRunsTheDecodedInstruction :=
  fun _ _ _ hready hi => step_of_ready_ok hready hi

/-- Settles O32: a placed word's request is ready and decodes to the word's instruction. -/
theorem placedTableWordRunsNext : Obligations.PlacedTableWordRunsNext :=
  fun _ nbits w _ htag hi =>
    step_of_ready_ok (ready_withFetchWord nbits w htag) (decodeTableWord_eq_some_iff.1 hi)

end Sys2Proof.Machine
end

section
/-! The answer to a ready request (10_state.md sections 4 and 6; 60_exceptions.md): that there is one, that it is
the one the rules give, which status words it can have, and which part of a build it depends on. -/

namespace Sys2Proof.Machine

/-! ### The status word -/

/-- A status word's bit, by position: the six named bits at the bottom, 0 from bit 6 up (R21). -/
theorem getLsbD_statusWord (b : StatusBits) (k : Nat) :
    (statusWord b).getLsbD k =
      ([b.ok, b.rangeErr, b.rangeData, b.zeroType, b.fmtErr, b.illegal].getD k false) := by
  have hwidth : (statusWord b).getLsbD k =
      BitVec.getLsbD (w := 26 + 1 + 1 + 1 + 1 + 1 + 1) (statusWord b) k := rfl
  rw [hwidth, statusWord]
  simp only [BitVec.getLsbD_append]
  match k with
  | 0 | 1 | 2 | 3 | 4 | 5 => simp
  | k + 6 => simp

theorem statusBits_statusWord (b : StatusBits) : statusBits (statusWord b) = b := by
  simp only [statusBits, getLsbD_statusWord]
  rfl

/-- Settles O6: each position of the layout, and the reader as the six of them. -/
theorem statusWordLayout : Obligations.StatusWordLayout := by
  intro b
  refine ⟨getLsbD_statusWord b 0, getLsbD_statusWord b 1, getLsbD_statusWord b 2, getLsbD_statusWord b 3,
    getLsbD_statusWord b 4, getLsbD_statusWord b 5, ?reserved, statusBits_statusWord b⟩
  case reserved =>
    intro k hk
    rw [getLsbD_statusWord, List.getD_eq_default _ _ hk]

/-! ### Completion and frame -/

theorem wellFormed_instr_iff (c : Config) (i : Instr) :
    i.wellFormed c = true ↔ ∀ buf, i = .cksum buf → Fits c buf := by
  cases i with
  | cksum buf => simpa [Instr.wellFormed] using fitsMaxLen_iff c buf
  | ckstep a b => simp [Instr.wellFormed]
  | pack w v fd => simp [Instr.wellFormed]
  | encode t d tf df => simp [Instr.wellFormed]
  | decode w tf df => simp [Instr.wellFormed]

/-- For a decoded request the block asks the same of the request itself (R60). -/
theorem wellFormed_iff_of_decode {r : Request} {i : Instr} (h : decode r = .ok i) (c : Config) :
    i.wellFormed c = true ↔ (r.cmd = 1 → Fits c r.buf) := by
  rw [wellFormed_instr_iff]
  rcases decode_ok_cases h with ⟨hc, rfl⟩ | ⟨hc, rfl⟩ | ⟨hc, rfl⟩ | ⟨hc, rfl⟩ | ⟨hc, rfl⟩
  · simp [hc]
  · simp [hc]
  · simp [hc]
  · simp [hc]
  · simp [hc]

/-- Settles O34: an instruction that may stand in the port is answered. -/
theorem everyInstructionCompletes : Obligations.EveryInstructionCompletes :=
  fun i s h => ⟨_, exec_of_wellFormed ((wellFormed_instr_iff s.config i).2 h)⟩

/-- An instruction is answered, and nothing but the ports and the run changes, or it is refused for its
length (R29, R60). -/
theorem exec_cases (i : Instr) (s : State) :
    (∃ p : Response, exec i s = .next (answered s p)) ∨ exec i s = .refused .bufferTooLong := by
  by_cases hi : i.wellFormed s.config = true
  · exact .inl ⟨_, exec_of_wellFormed hi⟩
  · exact .inr (exec_of_not_wellFormed hi)

/-- Settles O33: of the two outcomes of an instruction only the answer is a next state. -/
theorem instructionsChangeOnlyThePortsAndTheRun :
    Obligations.InstructionsChangeOnlyThePortsAndTheRun := by
  intro i s t h
  rcases exec_cases i s with ⟨p, hp⟩ | hrefused
  · rw [hp] at h
    exact ⟨p, (Host.Outcome.next.inj h).symm⟩
  · rw [hrefused] at h
    cases h

/-! ### The cases of the rules -/

/-- Every request falls under a clause of the rules, in the order of R96; the clauses carry the names they have
in `Answers`. -/
inductive RequestCase (r : Request) : Prop
  | illegal (h : ¬ LegalCmd r.cmd)
  | cksum (hc : r.cmd = 1)
  | ckstep (hc : r.cmd = 2)
  | packFmt (hc : r.cmd = 3) (hwf : ¬ WFDesc r.tf)
  | packOk (hc : r.cmd = 3) (hwf : WFDesc r.tf) (hb : InRange r.b r.tf)
  | packRange (hc : r.cmd = 3) (hwf : WFDesc r.tf) (hb : ¬ InRange r.b r.tf)
  | codecFmt (hc : r.cmd = 4 ∨ r.cmd = 5) (hwf : ¬ (WFDesc r.tf ∧ WFDesc r.df))
  | encodeType (hc : r.cmd = 4) (htf : WFDesc r.tf) (hdf : WFDesc r.df) (ha : ¬ InRange r.a r.tf)
  | encodeData (hc : r.cmd = 4) (htf : WFDesc r.tf) (hdf : WFDesc r.df) (ha : InRange r.a r.tf)
      (hb : ¬ InRange r.b r.df)
  | encodeOk (hc : r.cmd = 4) (htf : WFDesc r.tf) (hdf : WFDesc r.df) (ha : InRange r.a r.tf)
      (hb : InRange r.b r.df)
  | decodeZero (hc : r.cmd = 5) (htf : WFDesc r.tf) (hdf : WFDesc r.df) (hz : extract r.a r.tf = 0)
  | decodeOk (hc : r.cmd = 5) (htf : WFDesc r.tf) (hdf : WFDesc r.df) (hz : extract r.a r.tf ≠ 0)

theorem requestCase_pack {r : Request} (hc : r.cmd = 3) : RequestCase r := by
  by_cases hwf : WFDesc r.tf
  · by_cases hb : InRange r.b r.tf
    · exact .packOk hc hwf hb
    · exact .packRange hc hwf hb
  · exact .packFmt hc hwf

theorem requestCase_encode {r : Request} (hc : r.cmd = 4) : RequestCase r := by
  by_cases hwf : WFDesc r.tf ∧ WFDesc r.df
  · by_cases ha : InRange r.a r.tf
    · by_cases hb : InRange r.b r.df
      · exact .encodeOk hc hwf.1 hwf.2 ha hb
      · exact .encodeData hc hwf.1 hwf.2 ha hb
    · exact .encodeType hc hwf.1 hwf.2 ha
  · exact .codecFmt (.inl hc) hwf

theorem requestCase_decode {r : Request} (hc : r.cmd = 5) : RequestCase r := by
  by_cases hwf : WFDesc r.tf ∧ WFDesc r.df
  · by_cases hz : extract r.a r.tf = 0
    · exact .decodeZero hc hwf.1 hwf.2 hz
    · exact .decodeOk hc hwf.1 hwf.2 hz
  · exact .codecFmt (.inr hc) hwf

theorem requestCase (r : Request) : RequestCase r := by
  by_cases hr : LegalCmd r.cmd
  · rcases hr with hc | hc | hc | hc | hc
    · exact .cksum hc
    · exact .ckstep hc
    · exact requestCase_pack hc
    · exact requestCase_encode hc
    · exact requestCase_decode hc
  · exact .illegal hr

/-- The rules give a request one response (R29). -/
theorem answers_unique {c : Config} {r : Request} {p q : Response} (hp : Answers c r p)
    (hq : Answers c r q) : q = p := by
  cases requestCase r with
  | illegal h => rw [hp.illegal h, hq.illegal h]
  | cksum hc => rw [hp.cksum hc, hq.cksum hc]
  | ckstep hc => rw [hp.ckstep hc, hq.ckstep hc]
  | packFmt hc hwf => rw [hp.packFmt hc hwf, hq.packFmt hc hwf]
  | packOk hc hwf hb => rw [hp.packOk hc hwf hb, hq.packOk hc hwf hb]
  | packRange hc hwf hb => rw [hp.packRange hc hwf hb, hq.packRange hc hwf hb]
  | codecFmt hc hwf => rw [hp.codecFmt hc hwf, hq.codecFmt hc hwf]
  | encodeType hc htf hdf ha => rw [hp.encodeType hc htf hdf ha, hq.encodeType hc htf hdf ha]
  | encodeData hc htf hdf ha hb => rw [hp.encodeData hc htf hdf ha hb, hq.encodeData hc htf hdf ha hb]
  | encodeOk hc htf hdf ha hb => rw [hp.encodeOk hc htf hdf ha hb, hq.encodeOk hc htf hdf ha hb]
  | decodeZero hc htf hdf hz => rw [hp.decodeZero hc htf hdf hz, hq.decodeZero hc htf hdf hz]
  | decodeOk hc htf hdf hz => rw [hp.decodeOk hc htf hdf hz, hq.decodeOk hc htf hdf hz]

/-! ### The step gives the rules' answer -/

section
variable {s : State} {r : Request}

/-- A ready request is answered, but for a CKSUM that is too long (R29, R60). -/
theorem step_of_ready_completes (h : Ready s r) (hfits : r.cmd = 1 → Fits s.config r.buf) :
    ∃ p : Response, step s = .next (answered s p) := by
  by_cases hr : LegalCmd r.cmd
  · obtain ⟨i, hi⟩ := decode_ok_of_legalCmd hr
    rw [step_of_ready_ok h hi, exec_of_wellFormed ((wellFormed_iff_of_decode hi s.config).2 hfits)]
    exact ⟨_, rfl⟩
  · exact ⟨_, step_of_ready_illegal h hr⟩

/-- The response of a step is read off any equation for the step. -/
theorem response_eq_of_step {p q : Response} (hp : step s = .next (answered s p))
    (hq : step s = .next (answered s q)) : p = q :=
  answered_inj (Host.Outcome.next.inj (hp.symm.trans hq))

theorem step_of_ready_cksum (h : Ready s r) (hc : r.cmd = 1) (hfits : Fits s.config r.buf) :
    step s = .next (answered s ⟨0x00000001, zext32 (loopFrom s.config 0xFF r.buf), 0, none⟩) := by
  rw [step_of_ready_ok h (decode_cksum hc), exec_cksum_of_fits hfits]

theorem step_of_ready_ckstep (h : Ready s r) (hc : r.cmd = 2) :
    step s = .next (answered s
      ⟨0x00000001, zext32 (tableRead s.config (lowByte r.a ^^^ lowByte r.b)), 0, none⟩) := by
  rw [step_of_ready_ok h (decode_ckstep hc), exec_ckstep, lowByte_eq_setWidth, lowByte_eq_setWidth]
  rfl

theorem step_of_ready_encodeOk (h : Ready s r) (hc : r.cmd = 4) (htf : WFDesc r.tf) (hdf : WFDesc r.df)
    (ha : InRange r.a r.tf) (hb : InRange r.b r.df) :
    step s = .next (answered s ⟨0x00000001,
      (r.a <<< r.tf.off.toNat) ||| (r.b <<< r.df.off.toNat) ||| s.config.originTag, 0, none⟩) := by
  have hzero : (0 : Word) ||| (r.a <<< r.tf.off.toNat) = r.a <<< r.tf.off.toNat := BitVec.zero_or
  rw [step_of_ready_encode h hc, exec_encode_inRange htf hdf ha hb, hzero]

/-- Whatever response a step gives a ready request, it satisfies every clause of the rules (R29). -/
theorem answers_of_ready_step {p : Response} (h : Ready s r) (hfits : r.cmd = 1 → Fits s.config r.buf)
    (hp : step s = .next (answered s p)) : Answers s.config r p where
  illegal hr := response_eq_of_step hp (step_of_ready_illegal h hr)
  cksum hc := response_eq_of_step hp (step_of_ready_cksum h hc (hfits hc))
  ckstep hc := response_eq_of_step hp (step_of_ready_ckstep h hc)
  packFmt hc hwf := response_eq_of_step hp ((step_of_ready_pack h hc).trans (exec_pack_illFormed hwf))
  packOk hc hwf hb := response_eq_of_step hp ((step_of_ready_pack h hc).trans (exec_pack_inRange hwf hb))
  packRange hc hwf hb :=
    response_eq_of_step hp ((step_of_ready_pack h hc).trans (exec_pack_outOfRange hwf hb))
  codecFmt hc hwf := response_eq_of_step hp (step_of_ready_codec_illFormed h hc (not_and_or.1 hwf))
  encodeType hc htf hdf ha :=
    response_eq_of_step hp ((step_of_ready_encode h hc).trans (exec_encode_typeOutOfRange htf hdf ha))
  encodeData hc htf hdf ha hb :=
    response_eq_of_step hp ((step_of_ready_encode h hc).trans (exec_encode_dataOutOfRange htf hdf ha hb))
  encodeOk hc htf hdf ha hb := response_eq_of_step hp (step_of_ready_encodeOk h hc htf hdf ha hb)
  decodeZero hc htf hdf hz :=
    response_eq_of_step hp ((step_of_ready_decode h hc).trans (exec_decode_zeroType htf hdf hz))
  decodeOk hc htf hdf hz :=
    response_eq_of_step hp ((step_of_ready_decode h hc).trans (exec_decode_nonzeroType htf hdf hz))

theorem step_of_ready_answers (h : Ready s r) (hfits : r.cmd = 1 → Fits s.config r.buf) :
    ∃ p : Response, step s = .next (answered s p) ∧ Answers s.config r p := by
  obtain ⟨p, hp⟩ := step_of_ready_completes h hfits
  exact ⟨p, hp, answers_of_ready_step h hfits hp⟩

end

/-- Settles O35: the step completes, its response satisfies the clauses, and the clauses leave no other. -/
theorem stepGivesTheAnswerOfTheRules : Obligations.StepGivesTheAnswerOfTheRules := by
  intro s r h hfits
  obtain ⟨p, hp, hans⟩ := step_of_ready_answers h hfits
  exact ⟨p, hp, hans, fun q hq => answers_unique hans hq⟩

/-! ### The six status words -/

/-- The six kinds of answer (R94), each with the requests that get it, the unused results and the event. -/
inductive AnswerKind (r : Request) (p : Response) : Prop
  | ok (hst : p.status = 0x00000001) (hr : LegalCmd r.cmd) (hr1 : r.cmd ≠ 5 → p.r1 = 0) (hd : p.diag = none)
  | zeroType (hst : p.status = 0x00000009) (hr : r.cmd = 5) (hd : p.diag ≠ none)
  | range (hst : p.status = 0x00000002) (hr : r.cmd = 3 ∨ r.cmd = 4) (hr1 : p.r1 = 0) (hd : p.diag ≠ none)
  | rangeData (hst : p.status = 0x00000006) (hr : r.cmd = 4) (hr1 : p.r1 = 0) (hd : p.diag ≠ none)
  | fmtErr (hst : p.status = 0x00000010) (hr : r.cmd = 3 ∨ r.cmd = 4 ∨ r.cmd = 5) (hr0 : p.r0 = 0)
      (hr1 : p.r1 = 0) (hd : p.diag = none)
  | illegal (hst : p.status = 0x00000020) (hr : ¬ LegalCmd r.cmd) (hr0 : p.r0 = 0) (hr1 : p.r1 = 0)
      (hd : p.diag = none)

theorem answerKind_of_answers {c : Config} {r : Request} {p : Response} (h : Answers c r p) :
    AnswerKind r p := by
  cases requestCase r with
  | illegal hr => rw [h.illegal hr]; exact .illegal rfl hr rfl rfl rfl
  | cksum hc => rw [h.cksum hc]; exact .ok rfl (.inl hc) (fun _ => rfl) rfl
  | ckstep hc => rw [h.ckstep hc]; exact .ok rfl (.inr (.inl hc)) (fun _ => rfl) rfl
  | packFmt hc hwf => rw [h.packFmt hc hwf]; exact .fmtErr rfl (.inl hc) rfl rfl rfl
  | packOk hc hwf hb =>
    rw [h.packOk hc hwf hb]; exact .ok rfl (.inr (.inr (.inl hc))) (fun _ => rfl) rfl
  | packRange hc hwf hb => rw [h.packRange hc hwf hb]; exact .range rfl (.inl hc) rfl (by simp)
  | codecFmt hc hwf => rw [h.codecFmt hc hwf]; exact .fmtErr rfl (.inr hc) rfl rfl rfl
  | encodeType hc htf hdf ha =>
    rw [h.encodeType hc htf hdf ha]; exact .range rfl (.inr hc) rfl (by simp)
  | encodeData hc htf hdf ha hb => rw [h.encodeData hc htf hdf ha hb]; exact .rangeData rfl hc rfl (by simp)
  | encodeOk hc htf hdf ha hb =>
    rw [h.encodeOk hc htf hdf ha hb]; exact .ok rfl (.inr (.inr (.inr (.inl hc)))) (fun _ => rfl) rfl
  | decodeZero hc htf hdf hz => rw [h.decodeZero hc htf hdf hz]; exact .zeroType rfl hc (by simp)
  | decodeOk hc htf hdf hz =>
    rw [h.decodeOk hc htf hdf hz]
    exact .ok rfl (.inr (.inr (.inr (.inr hc)))) (fun hne => absurd hc hne) rfl

theorem statusBits_statusWords :
    statusBits 0x00000001 = { noStatus with ok := true } ∧
    statusBits 0x00000009 = { noStatus with ok := true, zeroType := true } ∧
    statusBits 0x00000002 = { noStatus with rangeErr := true } ∧
    statusBits 0x00000006 = { noStatus with rangeErr := true, rangeData := true } ∧
    statusBits 0x00000010 = { noStatus with fmtErr := true } ∧
    statusBits 0x00000020 = { noStatus with illegal := true } := by decide

/-- Settles O30: the rules' answer is of one of six kinds, and each kind has the listed properties. -/
theorem everyAnswerHasOneOfSixStatusWords : Obligations.EveryAnswerHasOneOfSixStatusWords := by
  intro s r h hfits
  obtain ⟨p, hp, hans⟩ := step_of_ready_answers h hfits
  obtain ⟨hok, hzero, hrange, hdata, hfmt, hill⟩ := statusBits_statusWords
  refine ⟨p, hp, ?_⟩
  cases answerKind_of_answers hans with
  | ok hst hr hr1 hd => simp_all [noStatus]
  | zeroType hst hr hd => simp_all [noStatus]
  | range hst hr hr1 hd =>
    rcases hr with hr | hr
    · simp_all [noStatus]
    · simp_all [noStatus]
  | rangeData hst hr hr1 hd => simp_all [noStatus]
  | fmtErr hst hr hr0 hr1 hd => simp_all [noStatus]
  | illegal hst hr hr0 hr1 hd => simp_all [noStatus]

/-! ### The two parts of a build -/

/-- ENCODE reads the tag and nothing else of the build (R32). -/
theorem encodeResponse_congr {c c' : Config} (h : c.originTag = c'.originTag) (t d : Word)
    (tf df : FieldDesc) : encodeResponse c t d tf df = encodeResponse c' t d tf df := by
  unfold encodeResponse
  rw [h]

/-- The checksum engine reads the table and nothing else of the build (R32). -/
theorem tableRead_congr {c c' : Config} (h : c.ckTable = c'.ckTable) : tableRead c = tableRead c' := by
  funext x
  simp only [tableRead, h]

theorem loopFrom_congr {c c' : Config} (h : c.ckTable = c'.ckTable) (acc : Byte) (buf : List Byte) :
    loopFrom c acc buf = loopFrom c' acc buf := by
  simp only [loopFrom, tableRead_congr h]

/-- Settles O37: an instruction's response takes from the build what its part reads and no more. -/
theorem codecAndChecksumEngineAreIndependent : Obligations.CodecAndChecksumEngineAreIndependent := by
  refine ⟨?pack, ?decode, ?encode, ?ckstep, ?cksum⟩
  case pack => exact fun s s' w v fd => ⟨_, exec_of_wellFormed rfl, exec_of_wellFormed rfl⟩
  case decode => exact fun s s' w tf df => ⟨_, exec_of_wellFormed rfl, exec_of_wellFormed rfl⟩
  case encode =>
    intro s s' t d tf df htag
    refine ⟨_, exec_of_wellFormed rfl, ?_⟩
    rw [exec_of_wellFormed rfl, instrResponse, instrResponse, encodeResponse_congr htag]
  case ckstep =>
    intro s s' a b htable
    refine ⟨_, exec_ckstep s a b, ?_⟩
    rw [exec_ckstep, tableRead_congr htable]
  case cksum =>
    intro s s' buf htable hfits hfits'
    refine ⟨_, exec_cksum_of_fits hfits, ?_⟩
    rw [exec_cksum_of_fits hfits', loopFrom_congr htable]

end Sys2Proof.Machine
end

section
/-! The ports and the run (10_state.md section 6; 20_memory.md section 3; 70_reset_and_hazards.md): one equation of
the step per act, what every step keeps, and what several steps do. -/

namespace Sys2Proof.Machine

/-! ### The step, one act at a time -/

/-- `s` with the request accepted from the head of the environment's list. -/
def accepted (s : State) (r : Request) (rest : List PortEvent) : State :=
  { s with env := rest, reqPort := some r }

/-- `s` after the reset at the head of the environment's list. -/
def afterReset (s : State) (rest : List PortEvent) : State :=
  { config := s.config, reqPort := none, respPort := none, env := rest, history := s.history }

section
variable {s : State} {r : Request} {rest : List PortEvent}

theorem step_of_reset (htag : s.config.originTag ≠ 0) (henv : s.env = .reset :: rest) :
    step s = .next (afterReset s rest) := by
  have hact : s.nextAction = .reset rest := by simp only [State.nextAction, henv]
  rw [step, if_pos ((wellFormed_iff _).2 htag), hact]
  rfl

theorem step_of_request (htag : s.config.originTag ≠ 0) (hport : s.reqPort = none)
    (henv : s.env = .request r :: rest) : step s = accept r { s with env := rest } := by
  have hact : s.nextAction = .accept r rest := by simp only [State.nextAction, henv, hport]
  rw [step, if_pos ((wellFormed_iff _).2 htag), hact]

theorem step_of_quiet (htag : s.config.originTag ≠ 0) (hport : s.reqPort = none)
    (henv : s.env = .quiet :: rest) : step s = .next { s with env := rest } := by
  have hact : s.nextAction = .quiet rest := by simp only [State.nextAction, henv, hport]
  rw [step, if_pos ((wellFormed_iff _).2 htag), hact]

theorem step_of_idle (htag : s.config.originTag ≠ 0) (hport : s.reqPort = none) (henv : s.env = []) :
    step s = .next s := by
  have hact : s.nextAction = .idle := by simp only [State.nextAction, henv, hport]
  rw [step, if_pos ((wellFormed_iff _).2 htag), hact]

end

/-- Settles O45: the step with nothing to do. -/
theorem idleBlockWaitsUnchanged : Obligations.IdleBlockWaitsUnchanged :=
  fun _ htag hport henv => step_of_idle htag hport henv

/-- Settles O38: the step at a reset, and the answer to a request that none meets. -/
theorem resetEmptiesThePortsAndKeepsTheConstants :
    Obligations.ResetEmptiesThePortsAndKeepsTheConstants :=
  ⟨fun _ _ htag henv => step_of_reset htag henv,
    fun _ _ hready hfits => step_of_ready_completes hready hfits,
    reset_reqPort, reset_respPort⟩

/-! ### Acceptance -/

/-- The block accepts every request but a CKSUM that is too long (R46, R60). -/
theorem acceptable_iff (c : Config) (r : Request) :
    acceptable c r = true ↔ (r.cmd = 1 → Fits c r.buf) := by
  unfold acceptable
  cases hr : decode r with
  | ok i =>
    exact wellFormed_iff_of_decode hr c
  | error e =>
    have hne : r.cmd ≠ 1 := fun hc => by cases hr.symm.trans (decode_cksum hc)
    exact ⟨fun _ hc => absurd hc hne, fun _ => rfl⟩

section
variable {s : State} {r : Request} {rest : List PortEvent}

theorem step_of_request_accepted (htag : s.config.originTag ≠ 0) (hport : s.reqPort = none)
    (henv : s.env = .request r :: rest) (hfits : r.cmd = 1 → Fits s.config r.buf) :
    step s = .next (accepted s r rest) := by
  rw [step_of_request htag hport henv, accept, if_pos ((acceptable_iff s.config r).2 hfits)]
  rfl

theorem step_of_request_refused (htag : s.config.originTag ≠ 0) (hport : s.reqPort = none)
    (henv : s.env = .request r :: rest) (hc : r.cmd = 1) (hlong : ¬ Fits s.config r.buf) :
    step s = .refused .bufferTooLong := by
  rw [step_of_request htag hport henv, accept, if_neg]
  exact fun hacc => hlong ((acceptable_iff s.config r).1 hacc hc)

end

section
variable {c : Config} {buf : List Byte} {m : Nat}

theorem fits_iff_length_le (hm : c.ckMaxLen = some m) : Fits c buf ↔ buf.length ≤ m := by
  simp [Fits, hm]

theorem fits_of_unbounded (hm : c.ckMaxLen = none) : Fits c buf := by
  simp [Fits, hm]

end

/-- Settles O8: the bound decides whether the buffer fits, and that decides acceptance and CKSUM alike. -/
theorem cksumTooLongIsRefused : Obligations.CksumTooLongIsRefused := by
  refine ⟨?presented, ?executed, ?fits, ?unbounded⟩
  case presented =>
    intro s r rest m htag hport henv hc hm hlong
    exact step_of_request_refused htag hport henv hc (mt (fits_iff_length_le hm).1 (Nat.not_le.2 hlong))
  case executed =>
    intro s buf m hm hlong
    exact exec_cksum_of_not_fits (mt (fits_iff_length_le hm).1 (Nat.not_le.2 hlong))
  case fits =>
    intro s r rest m htag hport henv _ hm hle
    exact step_of_request_accepted htag hport henv fun _ => (fits_iff_length_le hm).2 hle
  case unbounded =>
    intro s r rest htag hport henv _ hm
    exact step_of_request_accepted htag hport henv fun _ => fits_of_unbounded hm

/-! ### The refusal of a zero tag -/

/-- Serving a request answers it, or refuses it for its length (R46, R60). -/
theorem serve_cases (r : Request) (s : State) :
    (∃ p : Response, serve r s = .next (answered s p)) ∨ serve r s = .refused .bufferTooLong := by
  cases hr : decode r with
  | ok i =>
    rw [serve_of_ok hr]
    exact exec_cases i s
  | error e => exact .inl ⟨_, serve_of_error hr⟩

theorem answered_of_serve {r : Request} {s t : State} (h : serve r s = .next t) :
    ∃ p : Response, t = answered s p := by
  rcases serve_cases r s with ⟨p, hp⟩ | hrefused
  · rw [hp] at h
    exact ⟨p, (Host.Outcome.next.inj h).symm⟩
  · rw [hrefused] at h
    cases h

/-- A well-formed build's step answers a next state or refuses a CKSUM that is too long. -/
theorem step_outcomes {s : State} (htag : s.config.originTag ≠ 0) :
    (∃ t, step s = .next t) ∨ step s = .refused .bufferTooLong := by
  rcases nextAction_cases s with ⟨rest, henv, _⟩ | ⟨hno, r, hport, _⟩ | ⟨r, rest, henv, hport, _⟩ |
    ⟨rest, henv, hport, _⟩ | ⟨henv, hport, _⟩
  · exact .inl ⟨_, step_of_reset htag henv⟩
  · rw [step_of_ready ⟨htag, hport, hno⟩]
    exact (serve_cases r s).imp_left fun ⟨p, hp⟩ => ⟨_, hp⟩
  · by_cases hfits : r.cmd = 1 → Fits s.config r.buf
    · exact .inl ⟨_, step_of_request_accepted htag hport henv hfits⟩
    · obtain ⟨hc, hlong⟩ := Classical.not_imp.1 hfits
      exact .inr (step_of_request_refused htag hport henv hc hlong)
  · exact .inl ⟨_, step_of_quiet htag hport henv⟩
  · exact .inl ⟨_, step_of_idle htag hport henv⟩

/-- Settles O44: a zero tag is refused before any act, and the acts have another refusal. -/
theorem zeroOriginTagIsRefused : Obligations.ZeroOriginTagIsRefused := by
  refine ⟨fun s htag => step_of_zero_tag htag, fun s htag hrefused => ?_⟩
  rcases step_outcomes htag with ⟨t, ht⟩ | hlong
  · cases ht.symm.trans hrefused
  · cases hlong.symm.trans hrefused

/-! ### What every step keeps -/

theorem answered_history {s : State} {r : Request} (p : Response) (hport : s.reqPort = some r) :
    (answered s p).history = s.history ++ [(r, p)] :=
  respond_history_of_port s p hport

/-- Settles O40: none of the five next states of a step has another configuration. -/
theorem noStepChangesTheConfiguration : Obligations.NoStepChangesTheConfiguration := by
  intro s t h
  obtain ⟨_, ⟨rest, _, rfl⟩ | ⟨r, _, hserve⟩ | ⟨r, rest, _, _, _, rfl⟩ | ⟨rest, _, _, rfl⟩ | ⟨_, _, rfl⟩⟩ :=
    step_cases h
  · rfl
  · obtain ⟨p, rfl⟩ := answered_of_serve hserve
    rfl
  · rfl
  · rfl
  · rfl

/-- Settles O41: only the answering of a request adds to the run. -/
theorem runGrowsByTheRequestAnswered : Obligations.RunGrowsByTheRequestAnswered := by
  intro s t h
  obtain ⟨_, ⟨rest, _, rfl⟩ | ⟨r, hready, hserve⟩ | ⟨r, rest, _, _, _, rfl⟩ | ⟨rest, _, _, rfl⟩ |
    ⟨_, _, rfl⟩⟩ := step_cases h
  · exact .inl ⟨rfl, .inr rfl⟩
  · obtain ⟨p, rfl⟩ := answered_of_serve hserve
    exact .inr ⟨r, p, hready.port, rfl, answered_history p hready.port⟩
  · exact .inl ⟨rfl, .inl rfl⟩
  · exact .inl ⟨rfl, .inl rfl⟩
  · exact .inl ⟨rfl, .inl rfl⟩

/-! ### The invariant -/

/-- With a silent run and empty ports the invariant asks for the tag alone. -/
theorem inv_ofConfig {c : Config} (htag : c.originTag ≠ 0) : Inv (State.ofConfig c) where
  config := htag
  port := fun _ hport => by cases hport
  run := fun _ he => by cases he
  response := .inl rfl

/-- Settles O46: the default tag is not 0. -/
theorem invariantHoldsAtReset : Obligations.InvariantHoldsAtReset := by
  have htag : defaultConfig.originTag ≠ 0 := by decide
  exact ⟨inv_ofConfig htag, fun _ => inv_ofConfig⟩

section
variable {s : State}

theorem inv_afterReset (h : Inv s) (rest : List PortEvent) : Inv (afterReset s rest) where
  config := h.config
  port := fun _ hport => by cases hport
  run := h.run
  response := .inl rfl

/-- The one answer a step adds to the run is the rules' (R29, R38). -/
theorem inv_answered {r : Request} {p : Response} (h : Inv s) (hport : s.reqPort = some r)
    (hans : Answers s.config r p) : Inv (answered s p) where
  config := h.config
  port := fun _ hport' => by cases hport'
  run := by
    intro e he
    rw [answered_history p hport, List.mem_append, List.mem_singleton] at he
    rcases he with he | rfl
    · exact h.run e he
    · exact hans
  response := by
    refine .inr ⟨(r, p), ?_, rfl⟩
    rw [answered_history p hport, List.getLast?_concat]

theorem inv_accepted {r : Request} (h : Inv s) (hfits : r.cmd = 1 → Fits s.config r.buf)
    (rest : List PortEvent) : Inv (accepted s r rest) where
  config := h.config
  port := by
    intro r' hr'
    cases hr'
    exact hfits
  run := h.run
  response := h.response

/-- What the environment is about to do plays no part in the invariant. -/
theorem inv_env (h : Inv s) (rest : List PortEvent) : Inv { s with env := rest } where
  config := h.config
  port := h.port
  run := h.run
  response := h.response

end

/-- Settles O47: of the five next states of a step, a reset's empties the port, an answer's enters the rules'
answer, an acceptance's lets nothing too long in, and the others leave ports and run alone. -/
theorem stepKeepsTheInvariant : Obligations.StepKeepsTheInvariant := by
  intro s t h hstep
  obtain ⟨_, ⟨rest, _, rfl⟩ | ⟨r, hready, hserve⟩ | ⟨r, rest, _, _, hacc, rfl⟩ | ⟨rest, _, _, rfl⟩ |
    ⟨_, _, rfl⟩⟩ := step_cases hstep
  · exact inv_afterReset h rest
  · obtain ⟨p, rfl⟩ := answered_of_serve hserve
    exact inv_answered h hready.port (answers_of_ready_step hready (h.port r hready.port) hstep)
  · exact inv_accepted h ((acceptable_iff s.config r).1 hacc) rest
  · exact inv_env h rest
  · exact h

/-! ### Several steps -/

theorem steps_succ {s t : State} (h : step s = .next t) (n : Nat) : steps (n + 1) s = steps n t := by
  rw [steps, h]

theorem steps_one {s t : State} (h : step s = .next t) : steps 1 s = .next t :=
  steps_succ h 0

theorem next_of_steps_succ {n : Nat} {s t : State} (h : steps (n + 1) s = .next t) :
    ∃ u, step s = .next u ∧ steps n u = .next t := by
  cases hs : step s with
  | next u => exact ⟨u, rfl, (steps_succ hs n).symm.trans h⟩
  | fault f => rw [steps, hs] at h; cases h
  | refused e => rw [steps, hs] at h; cases h

theorem steps_add {m : Nat} {s t : State} (h : steps m s = .next t) (n : Nat) :
    steps (m + n) s = steps n t := by
  induction m generalizing s with
  | zero => cases h; rw [Nat.zero_add]
  | succ m ih =>
    obtain ⟨u, hu, hrest⟩ := next_of_steps_succ h
    rw [Nat.add_right_comm, steps_succ hu, ih hrest]

theorem steps_of_idle {s : State} (htag : s.config.originTag ≠ 0) (hport : s.reqPort = none)
    (henv : s.env = []) (n : Nat) : steps n s = .next s := by
  induction n with
  | zero => rfl
  | succ n ih => rw [steps_succ (step_of_idle htag hport henv), ih]

/-- A run of resets does what one does (R105). -/
theorem steps_of_resets {s : State} {rest : List PortEvent} (htag : s.config.originTag ≠ 0) (n : Nat)
    (henv : s.env = List.replicate (n + 1) .reset ++ rest) : steps (n + 1) s = .next (afterReset s rest) := by
  induction n generalizing s with
  | zero => exact steps_one (step_of_reset htag henv)
  | succ n ih =>
    have hstep : step s = .next (afterReset s (List.replicate (n + 1) .reset ++ rest)) :=
      step_of_reset htag henv
    exact (steps_succ hstep (n + 1)).trans (ih (s := afterReset s _) htag rfl)

/-- A request presented to an idle block is accepted and then answered by the rules, before anything else
happens, unless a reset comes right after it (R36, R37). -/
theorem steps_two_of_presented {s : State} {r : Request} {rest : List PortEvent}
    (htag : s.config.originTag ≠ 0) (hport : s.reqPort = none) (henv : s.env = .request r :: rest)
    (hno : ∀ rest', rest ≠ .reset :: rest') (hfits : r.cmd = 1 → Fits s.config r.buf) :
    ∃ p : Response, Answers s.config r p ∧ steps 2 s = .next (answered (accepted s r rest) p) := by
  have hready : Ready (accepted s r rest) r := ⟨htag, rfl, hno⟩
  obtain ⟨p, hp, hans⟩ := step_of_ready_answers hready hfits
  refine ⟨p, hans, ?_⟩
  rw [steps_succ (step_of_request_accepted htag hport henv hfits), steps_one hp]

/-- Settles O39: the resets leave idle ports, to which the request is then presented. -/
theorem resetsDoNotShowInResults : Obligations.ResetsDoNotShowInResults := by
  intro n s r htag hfits henv
  have hno : ∀ rest' : List PortEvent, [] ≠ .reset :: rest' := by simp
  obtain ⟨p, hans, hsteps⟩ :=
    steps_two_of_presented (s := afterReset s [.request r]) htag rfl rfl hno hfits
  refine ⟨p, hans, ?_⟩
  show steps (n + 1 + 2) s = _
  rw [steps_add (steps_of_resets htag n henv), hsteps]
  rfl

/-! ### Requests in order -/

theorem map_request_ne_reset (rs : List Request) (rest : List PortEvent) :
    rs.map .request ≠ .reset :: rest := by
  cases rs with
  | nil => simp
  | cons r rs => simp

/-- Settles O42: by induction on the requests, two steps for the first and the rest from the idle state they
leave. -/
theorem requestsAreAnsweredInOrder : Obligations.RequestsAreAnsweredInOrder := by
  intro s rs htag hport henv hfits
  induction rs generalizing s with
  | nil => exact ⟨[], s, rfl, by simp, rfl, rfl, hport, henv, by simp⟩
  | cons r rs ih =>
    obtain ⟨p, hans, hfirst⟩ := steps_two_of_presented htag hport henv (map_request_ne_reset rs)
      (hfits r List.mem_cons_self)
    obtain ⟨ps, t, hlen, hrest, hsteps, hconfig, htport, htenv, hrun⟩ :=
      ih (answered (accepted s r (rs.map .request)) p) htag rfl rfl
        fun r' hr' => hfits r' (List.mem_cons_of_mem r hr')
    refine ⟨p :: ps, t, by simp [hlen], ?answers, ?steps, hconfig, htport, htenv, ?run⟩
    case answers =>
      rw [List.zip_cons_cons, List.forall_mem_cons]
      exact ⟨hans, hrest⟩
    case steps =>
      rw [List.length_cons, Nat.mul_succ, Nat.add_comm, steps_add hfirst, hsteps]
    case run =>
      rw [hrun, List.zip_cons_cons]
      exact List.append_assoc s.history [(r, p)] (rs.zip ps)

/-! ### No hang -/

/-- The acts still to be taken, an unanswered request being half of one. -/
def work (s : State) : Nat :=
  2 * s.env.length + s.reqPort.toList.length

/-- The build is well formed and no CKSUM that is too long stands in the port or is to come. -/
structure NothingTooLong (s : State) : Prop where
  config : s.config.originTag ≠ 0
  port : ∀ r, s.reqPort = some r → r.cmd = 1 → Fits s.config r.buf
  env : ∀ r, .request r ∈ s.env → r.cmd = 1 → Fits s.config r.buf

theorem idle_of_work_eq_zero {s : State} (h : work s = 0) : s.env = [] ∧ s.reqPort = none := by
  obtain ⟨henv, hport⟩ := Nat.add_eq_zero_iff.1 h
  simpa using And.intro henv hport

theorem work_le (s : State) : work s ≤ 2 * s.env.length + 1 := by
  unfold work
  cases s.reqPort with
  | none => simp
  | some r => simp

/-- What is to come after the next act is a part of what is to come. -/
theorem fits_of_mem_tail {s : State} {e : PortEvent} {rest : List PortEvent} (h : NothingTooLong s)
    (henv : s.env = e :: rest) : ∀ r, .request r ∈ rest → r.cmd = 1 → Fits s.config r.buf :=
  fun r hr => h.env r (henv ▸ List.mem_cons_of_mem _ hr)

/-- Every act taken leaves less to do. -/
theorem step_decreases_work {s : State} (h : NothingTooLong s) (hwork : work s ≠ 0) :
    ∃ t, step s = .next t ∧ t.config = s.config ∧ NothingTooLong t ∧ work t < work s := by
  have htag := h.config
  rcases nextAction_cases s with ⟨rest, henv, _⟩ | ⟨hno, r, hport, _⟩ | ⟨r, rest, henv, hport, _⟩ |
    ⟨rest, henv, hport, _⟩ | ⟨henv, hport, _⟩
  · have hrest := fits_of_mem_tail h henv
    refine ⟨_, step_of_reset htag henv, rfl, ⟨htag, fun _ hr => (by cases hr), hrest⟩, ?_⟩
    simp only [work, afterReset, henv, List.length_cons, Option.toList_none, List.length_nil]
    omega
  · obtain ⟨p, hp⟩ := step_of_ready_completes ⟨htag, hport, hno⟩ (h.port r hport)
    refine ⟨_, hp, rfl, ⟨htag, fun _ hr => (by cases hr), h.env⟩, ?_⟩
    simp [work, answered, hport]
  · have hrest := fits_of_mem_tail h henv
    have hfits : r.cmd = 1 → Fits s.config r.buf := h.env r (henv ▸ List.mem_cons_self)
    refine ⟨_, step_of_request_accepted htag hport henv hfits, rfl,
      ⟨htag, fun r' hr' => (by cases hr'; exact hfits), hrest⟩, ?_⟩
    simp only [work, accepted, henv, hport, List.length_cons, Option.toList_none, Option.toList_some,
      List.length_nil]
    omega
  · have hrest := fits_of_mem_tail h henv
    refine ⟨_, step_of_quiet htag hport henv, rfl, ⟨htag, h.port, hrest⟩, ?_⟩
    simp [work, henv]
  · simp [work, henv, hport] at hwork

/-- As many steps as there is work, or more, finish it: what is left over is spent idle. -/
theorem steps_of_work_le (n : Nat) {s : State} (h : NothingTooLong s) (hn : work s ≤ n) :
    ∃ t, steps n s = .next t ∧ t.env = [] ∧ t.reqPort = none ∧ t.config = s.config := by
  induction n generalizing s with
  | zero =>
    obtain ⟨henv, hport⟩ := idle_of_work_eq_zero (Nat.le_zero.1 hn)
    exact ⟨s, rfl, henv, hport, rfl⟩
  | succ n ih =>
    by_cases hwork : work s = 0
    · obtain ⟨henv, hport⟩ := idle_of_work_eq_zero hwork
      exact ⟨s, steps_of_idle h.config hport henv _, henv, hport, rfl⟩
    · obtain ⟨u, hu, hconfig, hnothing, hless⟩ := step_decreases_work h hwork
      obtain ⟨t, ht, henv, hport, hconfig'⟩ := ih hnothing (by omega)
      exact ⟨t, (steps_succ hu n).trans ht, henv, hport, hconfig'.trans hconfig⟩

/-- Settles O43: the work at hand is at most two steps an act and one for the request in the port. -/
theorem blockNeverHangs : Obligations.BlockNeverHangs :=
  fun s htag hport henv => steps_of_work_le _ ⟨htag, hport, henv⟩ (work_le s)

end Sys2Proof.Machine
end
